-- ==== Sys2Proof/Word.lean ====
section
/-! DEFINITION. The word types of the engine (spec 00_scope.md R13): a byte, the 16- and 32-bit
big-endian quantities and the 48-bit identities. All values are unsigned. -/

namespace Sys2Proof

/-- A byte, the only unit of storage (R60). -/
abbrev Byte := BitVec 8

/-- A 16-bit quantity: parameter id, sub-device, NACK reason, checksum, start address (R65). -/
abbrev Word16 := BitVec 16

/-- The 32-bit software version of device info (R104). -/
abbrev Word32 := BitVec 32

/-- A 6-byte identity as the 48-bit big-endian number the spec compares it as (R18, R95). -/
abbrev Id48 := BitVec 48

end Sys2Proof
end

