-- ==== Sys2Proof/Config.lean ====
section
/-! DEFINITION. What the spec fixes for the hardware (00_scope.md R6), what it leaves as a parameter
(R7 to R10), and the free values of what it leaves unspecified (93_implementation_defined.md U1 to U3). -/

namespace Sys2Proof

/-! ## Constants the document fixes (R6) -/

namespace Config

/-- `BUF_SIZE`: bytes of one frame buffer. -/
@[simp, reducible] def bufSize : Nat := 512
/-- Bytes of the frame memory: `N_BUF` = 2 buffers (R60). -/
@[simp, reducible] def memSize : Nat := 1024
/-- `SC_DMX`. -/
@[simp, reducible] def scDmx : Byte := 0x00
/-- `SC_RDM`. -/
@[simp, reducible] def scRdm : Byte := 0xCC
/-- `RDM_HDR`: `length = dataLength + 24` (R93). -/
@[simp, reducible] def rdmHdr : Nat := 24
/-- `RDM_PDL_MAX`: the largest data field. -/
@[simp, reducible] def rdmPdlMax : Nat := 231
/-- `MIN_GAP`, in time units (R251). -/
@[simp, reducible] def minGap : Nat := 176
/-- `DUB_REQ_LEN`. -/
@[simp, reducible] def dubReqLen : Byte := 36
/-- `DUB_REQ_PDL`. -/
@[simp, reducible] def dubReqPdl : Byte := 12
/-- `DUB_FE`. -/
@[simp, reducible] def dubFe : Byte := 0xFE
/-- `DUB_AA`: the separator and the first OR mask. -/
@[simp, reducible] def dubAa : Byte := 0xAA
/-- `DUB_55`: the second OR mask. -/
@[simp, reducible] def dub55 : Byte := 0x55
/-- `DUB_CS_BASE` = 6 * 0xFF. -/
@[simp, reducible] def dubCsBase : Word16 := 0x05FA
/-- `NACK_PDL`. -/
@[simp, reducible] def nackPdl : Byte := 2
/-- The largest legal start address; the smallest is 1. -/
@[simp, reducible] def startAddrMax : Word16 := 512

end Config

/-! ## Line timings and direction (R43, R44, R112) -/

/-- The four line timings. Symbolic: only their identity is modelled (R10, R44). -/
inductive Timing where
  | data | brk | rdmBrk | discBrk
deriving DecidableEq, Repr, Inhabited

/-- The line direction. -/
inductive Dir where
  | rx | tx
deriving DecidableEq, Repr, Inhabited

/-! ## Parameters (R7 to R10) -/

/-- The protocol numbers the document names and never gives (R8). -/
structure Protocol where
  ccDisc : Byte
  ccGet : Byte
  ccSet : Byte
  pidDiscUniqueBranch : Word16
  pidDiscMute : Word16
  pidDiscUnMute : Word16
  pidSupportedParameters : Word16
  pidDeviceInfo : Word16
  pidDeviceModelDescription : Word16
  pidManufacturerLabel : Word16
  pidDeviceLabel : Word16
  pidSoftwareVersionLabel : Word16
  pidDmxStartAddress : Word16
  pidIdentifyDevice : Word16
  rtAck : Byte
  rtNack : Byte
  nrUnknownPid : Word16
  nrFormatError : Word16
  nrHardwareFault : Word16
  nrUnsupportedCommandClass : Word16
  nrDataOutOfRange : Word16
  nrSubDeviceOutOfRange : Word16
deriving DecidableEq, Repr

/-- The addressing/identity configuration collaborator: constants fixed at construction (R9, R46).
The one value that changes, `startAddr`, is a register of the machine's state. -/
structure Collaborator where
  modelId : Word16
  footprint : Word16
  startAddrInit : Word16
  mfrLabel : List Byte
  modelDesc : List Byte
  swLabel : List Byte
  extraPids : List Word16
deriving DecidableEq, Repr

/-- `NACK_PRIORITY` (R10, R180): which NACK wins when the data length and the sub-device are both
wrong. -/
inductive NackPriority where
  | formatFirst | subdevFirst
deriving DecidableEq, Repr

/-- Every parameter of the step function (R7 to R10). `collab = none` is `CFG_PRESENT` false. -/
structure Params where
  uid : Id48
  vcast : Id48
  bcast : Id48
  proto : Protocol
  collab : Option Collaborator
  labelCap : Nat
  labelInit : List Byte
  productCategory : Word16
  swVersionId : Word32
  /-- `SUPPORTED_BASE_PIDS`, exactly three ids (R10, R103). -/
  basePids : Word16 × Word16 × Word16
  nackPriority : NackPriority
  /-- `TIME_W`. -/
  timeW : Nat
  /-- `FC_W`. -/
  fcW : Nat
  strMax : Nat
  extraMax : Nat
deriving DecidableEq, Repr

/-- The default protocol numbers (R8; PRESUMED, log 5: general knowledge, not in the source). -/
def Protocol.standard : Protocol where
  ccDisc := 0x10
  ccGet := 0x20
  ccSet := 0x30
  pidDiscUniqueBranch := 0x0001
  pidDiscMute := 0x0002
  pidDiscUnMute := 0x0003
  pidSupportedParameters := 0x0050
  pidDeviceInfo := 0x0060
  pidDeviceModelDescription := 0x0080
  pidManufacturerLabel := 0x0081
  pidDeviceLabel := 0x0082
  pidSoftwareVersionLabel := 0x00C0
  pidDmxStartAddress := 0x00F0
  pidIdentifyDevice := 0x1000
  rtAck := 0x00
  rtNack := 0x02
  nrUnknownPid := 0x0000
  nrFormatError := 0x0001
  nrHardwareFault := 0x0002
  nrUnsupportedCommandClass := 0x0005
  nrDataOutOfRange := 0x0006
  nrSubDeviceOutOfRange := 0x0009

/-- Values within one group are pairwise distinct (R8, U15). -/
def Protocol.distinct (q : Protocol) : Bool :=
  decide [q.ccDisc, q.ccGet, q.ccSet].Nodup &&
  decide [q.pidDiscUniqueBranch, q.pidDiscMute, q.pidDiscUnMute, q.pidSupportedParameters,
    q.pidDeviceInfo, q.pidDeviceModelDescription, q.pidManufacturerLabel, q.pidDeviceLabel,
    q.pidSoftwareVersionLabel, q.pidDmxStartAddress, q.pidIdentifyDevice].Nodup &&
  decide [q.rtAck, q.rtNack].Nodup &&
  decide [q.nrUnknownPid, q.nrFormatError, q.nrHardwareFault, q.nrUnsupportedCommandClass,
    q.nrDataOutOfRange, q.nrSubDeviceOutOfRange].Nodup

/-- The bounds on lengths that keep every response within 231 data bytes (R9, R10, U6, U16). -/
def Params.sizesOk (p : Params) : Bool :=
  decide (p.labelCap ≤ 231) && decide (p.labelInit.length ≤ p.labelCap) &&
  decide (p.strMax ≤ 231) && decide (p.extraMax ≤ 112) &&
  match p.collab with
  | none => true
  | some c =>
    decide (c.mfrLabel.length ≤ p.strMax) && decide (c.modelDesc.length ≤ p.strMax) &&
    decide (c.swLabel.length ≤ p.strMax) && decide (c.extraPids.length ≤ p.extraMax)

/-- Everything the spec requires of the parameters (U15 to U17, R10). -/
def Params.wf (p : Params) : Bool :=
  p.proto.distinct && p.sizesOk && decide (1 ≤ p.labelCap) && decide (9 ≤ p.timeW) &&
  match p.collab with
  | none => true
  | some c => decide (1 ≤ c.startAddrInit.toNat) && decide (c.startAddrInit.toNat ≤ 512)

/-- The parameters of `State.reset`: the defaults of R7 to R10 (PRESUMED, log 5) and, where the spec
gives no default, the values its test vectors use, the configuration "cfg" attached (DESIGN CHOICE,
log 4). Claims hold for every `Params`, not for these. -/
def Config.device : Params where
  uid := 0x123456789ABC
  vcast := 0x1234FFFFFFFF
  bcast := 0xFFFFFFFFFFFF
  proto := Protocol.standard
  collab := some
    { modelId := 0x0102
      footprint := 0x0004
      startAddrInit := 0x0011
      mfrLabel := [0x41, 0x43, 0x4D, 0x45]
      modelDesc := [0x44, 0x69, 0x6D, 0x6D, 0x65, 0x72, 0x34]
      swLabel := [0x76, 0x31, 0x2E, 0x32]
      extraPids := [0x8001] }
  labelCap := 32
  labelInit := []
  productCategory := 0x7FFF
  swVersionId := 0x01020304
  basePids := (0x0082, 0x00F0, 0x0081)
  nackPriority := .formatFirst
  timeW := 32
  fcW := 32
  strMax := 32
  extraMax := 112

/-! ## Free values (no body: nothing can be proved of them) -/

namespace Config

/-- The byte the frame memory holds at an address after power-up: any value (U1, R49; log 7). -/
opaque powerUpByte : Nat → Byte

/-- An unspecified time sample, one for each draw: `t0` and `now` after a reset (U2; log 8). -/
opaque unspecifiedTime : Nat → Nat

/-- The transport's line timing before the first `CFG`, one for each draw (U3; log 8). -/
opaque unspecifiedTiming : Nat → Timing

/-- The transport's line direction before the first `DIR`, one for each draw (U3; log 8). -/
opaque unspecifiedDir : Nat → Dir

end Config

end Sys2Proof
end

