-- ==== Sys2Proof/Syntax.lean ====
section
/-! DEFINITION. The operations of the engine: one constructor of `Instr` for each row of
spec/opcode_table.json (R106, R107, R111). -/

namespace Sys2Proof

/-- The device mode (R25, R114). -/
inductive Mode where
  | off | input | output
deriving DecidableEq, Repr

/-- The three encodings of the opcode map (R90, R106, R107, R111). -/
inductive Space where
  | startCode | rdmMsg | event
deriving DecidableEq, Repr

/-- The fifteen entries of the handler table (R107). -/
inductive Handler where
  | discUniqueBranch
  | discMute
  | discUnMute
  | getIdentifyDevice
  | setIdentifyDevice
  | getDeviceLabel
  | setDeviceLabel
  | getDmxStartAddress
  | setDmxStartAddress
  | getSupportedParameters
  | setSupportedParameters
  | getDeviceInfo
  | getManufacturerLabel
  | getDeviceModelDescription
  | getSoftwareVersionLabel
deriving DecidableEq, Repr

/-- The operations. The first three are the start codes, the next sixteen the RDM commands, whose
operands are the fields of the message in the active buffer, the last thirteen the input events. -/
inductive Instr where
  | scDmx
  | scRdm
  /-- Any other start code; `s` is the byte (254 values). -/
  | scOther (s : Byte)
  | discUniqueBranch
  | discMute
  | discUnMute
  | getIdentifyDevice
  | setIdentifyDevice
  | getDeviceLabel
  | setDeviceLabel
  | getDmxStartAddress
  | setDmxStartAddress
  | getSupportedParameters
  | setSupportedParameters
  | getDeviceInfo
  | getManufacturerLabel
  | getDeviceModelDescription
  | getSoftwareVersionLabel
  /-- A (command class, parameter id) with no entry in the handler table (R108). -/
  | rdmNomatch (cc : Byte) (pid : Word16)
  | reset
  /-- `b` is the byte at the head of `rxq`, which the event removes (R42). -/
  | rxbyte (b : Byte)
  /-- `tDisp`, `tResp` are `TIME_W`-bit samples of `now`; `during` are the bytes the transport
  delivers while a dispatch runs (R42, R143). -/
  | brk (tDisp tResp : Nat) (during : List Byte)
  | txdone
  | setMode (m : Mode)
  | setChannel (a : Word16) (v : Byte)
  | setChannels (s n : Word16) (vs : List Byte)
  | getBuffer
  | newFrame
  | rdmChanged
  | isIdentify
  | getLabel
  | poll
deriving DecidableEq, Repr

/-- Which encoding an operation belongs to. -/
def Instr.space : Instr → Space
  | .scDmx | .scRdm | .scOther _ => .startCode
  | .discUniqueBranch | .discMute | .discUnMute | .getIdentifyDevice | .setIdentifyDevice
  | .getDeviceLabel | .setDeviceLabel | .getDmxStartAddress | .setDmxStartAddress
  | .getSupportedParameters | .setSupportedParameters | .getDeviceInfo | .getManufacturerLabel
  | .getDeviceModelDescription | .getSoftwareVersionLabel | .rdmNomatch _ _ => .rdmMsg
  | .reset | .rxbyte _ | .brk _ _ _ | .txdone | .setMode _ | .setChannel _ _
  | .setChannels _ _ _ | .getBuffer | .newFrame | .rdmChanged | .isIdentify | .getLabel
  | .poll => .event

/-- The operation a handler-table entry names. -/
def Handler.instr : Handler → Instr
  | .discUniqueBranch => .discUniqueBranch
  | .discMute => .discMute
  | .discUnMute => .discUnMute
  | .getIdentifyDevice => .getIdentifyDevice
  | .setIdentifyDevice => .setIdentifyDevice
  | .getDeviceLabel => .getDeviceLabel
  | .setDeviceLabel => .setDeviceLabel
  | .getDmxStartAddress => .getDmxStartAddress
  | .setDmxStartAddress => .setDmxStartAddress
  | .getSupportedParameters => .getSupportedParameters
  | .setSupportedParameters => .setSupportedParameters
  | .getDeviceInfo => .getDeviceInfo
  | .getManufacturerLabel => .getManufacturerLabel
  | .getDeviceModelDescription => .getDeviceModelDescription
  | .getSoftwareVersionLabel => .getSoftwareVersionLabel

end Sys2Proof
end

