-- ==== Sys2Proof/WellFormed.lean ====
section
/-! DEFINITION. When the operands of an operation are ones its encoding admits (R42, R106 to R108,
U7 to U9). -/

namespace Sys2Proof

/-- The fifteen keys of the handler table, in the order of R107. -/
def Params.rdmKeys (p : Params) : List (Byte × Word16) :=
  let q := p.proto
  [(q.ccDisc, q.pidDiscUniqueBranch), (q.ccDisc, q.pidDiscMute), (q.ccDisc, q.pidDiscUnMute),
   (q.ccGet, q.pidIdentifyDevice), (q.ccSet, q.pidIdentifyDevice),
   (q.ccGet, q.pidDeviceLabel), (q.ccSet, q.pidDeviceLabel),
   (q.ccGet, q.pidDmxStartAddress), (q.ccSet, q.pidDmxStartAddress),
   (q.ccGet, q.pidSupportedParameters), (q.ccSet, q.pidSupportedParameters),
   (q.ccGet, q.pidDeviceInfo), (q.ccGet, q.pidManufacturerLabel),
   (q.ccGet, q.pidDeviceModelDescription), (q.ccGet, q.pidSoftwareVersionLabel)]

/-- `SC_OTHER` holds neither known start code (R106); `RDM_NOMATCH` no table key (R108); time
samples fit `TIME_W` bits and a byte string's length its 16-bit count (R42); the count of
`setChannels` is the length of its bytes (U9). -/
def WellFormed (p : Params) : Instr → Bool
  | .scOther s => decide (s ≠ Config.scDmx) && decide (s ≠ Config.scRdm)
  | .rdmNomatch cc pid => decide ((cc, pid) ∉ p.rdmKeys)
  | .brk tDisp tResp during =>
    decide (tDisp < 2 ^ p.timeW) && decide (tResp < 2 ^ p.timeW) && decide (during.length < 65536)
  | .setChannels _ n vs => decide (n.toNat = vs.length)
  | .scDmx | .scRdm | .discUniqueBranch | .discMute | .discUnMute | .getIdentifyDevice
  | .setIdentifyDevice | .getDeviceLabel | .setDeviceLabel | .getDmxStartAddress
  | .setDmxStartAddress | .getSupportedParameters | .setSupportedParameters | .getDeviceInfo
  | .getManufacturerLabel | .getDeviceModelDescription | .getSoftwareVersionLabel
  | .reset | .rxbyte _ | .txdone | .setMode _ | .setChannel _ _ | .getBuffer | .newFrame
  | .rdmChanged | .isIdentify | .getLabel | .poll => true

end Sys2Proof
end

