-- ==== Sys2Proof/Decode.lean ====
section
/-! DEFINITION. Decoding and encoding of operations (spec 30_encoding.md): the byte-order helpers,
the start-code table (R106), the handler table (R107), the event selectors (R111), and the layout
of event operands in bytes (DESIGN CHOICE, log 2). -/

namespace Sys2Proof

/-! ## Byte order (R13, R65) -/

/-- `hi8(v) = v[15:8]`. -/
def hi8 (v : Word16) : Byte := v.extractLsb' 8 8

/-- `lo8(v) = v[7:0]`. -/
def lo8 (v : Word16) : Byte := v.extractLsb' 0 8

/-- `be16(h, l) = h * 256 + l`. -/
def be16 (h l : Byte) : Word16 := h ++ l

/-- The 48-bit number of six bytes, most significant first. -/
def be48 (b0 b1 b2 b3 b4 b5 : Byte) : Id48 := b0 ++ b1 ++ b2 ++ b3 ++ b4 ++ b5

/-- `UID[k]`: byte `k` of a 6-byte identity, `k` in 0..5, byte 0 most significant. -/
def idByte (u : Id48) (k : Nat) : Byte := u.extractLsb' (8 * (5 - k)) 8

/-- The six bytes of an identity in wire order. -/
def idBytes (u : Id48) : List Byte :=
  [idByte u 0, idByte u 1, idByte u 2, idByte u 3, idByte u 4, idByte u 5]

/-- The four bytes of a 32-bit quantity, most significant first. -/
def word32Bytes (w : Word32) : List Byte :=
  [w.extractLsb' 24 8, w.extractLsb' 16 8, w.extractLsb' 8 8, w.extractLsb' 0 8]

/-- The number whose big-endian bytes are given. -/
def natOfBytes : List Byte → Nat
  | [] => 0
  | b :: bs => b.toNat * 256 ^ bs.length + natOfBytes bs

/-- The `n` big-endian bytes of a number, its part above them dropped. -/
def bytesOfNat : Nat → Nat → List Byte
  | 0, _ => []
  | n + 1, v => BitVec.ofNat 8 (v / 256 ^ n) :: bytesOfNat n v

/-! ## Level 1: start codes (R106) -/

/-- What a start code selects. -/
inductive StartCode where
  | dmx | rdm | other (s : Byte)
deriving DecidableEq, Repr

/-- The start-code table of R106. -/
def startCodeOf (b : Byte) : StartCode :=
  if b = Config.scDmx then .dmx else if b = Config.scRdm then .rdm else .other b

/-- The operation a start code stands for. -/
def StartCode.instr : StartCode → Instr
  | .dmx => .scDmx
  | .rdm => .scRdm
  | .other s => .scOther s

/-! ## Level 2: the handler table (R107) -/

/-- The handler table, "ordered", "first matching entry wins" (R35, R107). -/
def handlerTable (p : Params) : List ((Byte × Word16) × Handler) :=
  let q := p.proto
  [((q.ccDisc, q.pidDiscUniqueBranch), .discUniqueBranch),
   ((q.ccDisc, q.pidDiscMute), .discMute),
   ((q.ccDisc, q.pidDiscUnMute), .discUnMute),
   ((q.ccGet, q.pidIdentifyDevice), .getIdentifyDevice),
   ((q.ccSet, q.pidIdentifyDevice), .setIdentifyDevice),
   ((q.ccGet, q.pidDeviceLabel), .getDeviceLabel),
   ((q.ccSet, q.pidDeviceLabel), .setDeviceLabel),
   ((q.ccGet, q.pidDmxStartAddress), .getDmxStartAddress),
   ((q.ccSet, q.pidDmxStartAddress), .setDmxStartAddress),
   ((q.ccGet, q.pidSupportedParameters), .getSupportedParameters),
   ((q.ccSet, q.pidSupportedParameters), .setSupportedParameters),
   ((q.ccGet, q.pidDeviceInfo), .getDeviceInfo),
   ((q.ccGet, q.pidManufacturerLabel), .getManufacturerLabel),
   ((q.ccGet, q.pidDeviceModelDescription), .getDeviceModelDescription),
   ((q.ccGet, q.pidSoftwareVersionLabel), .getSoftwareVersionLabel)]

/-- The first entry of a handler table with the given key. -/
def firstMatch (cc : Byte) (pid : Word16) :
    List ((Byte × Word16) × Handler) → Option Handler
  | [] => none
  | (key, h) :: rest => if key = (cc, pid) then some h else firstMatch cc pid rest

/-- Step 2 of the dispatcher, the linear scan (R176). -/
def lookupHandler (p : Params) (cc : Byte) (pid : Word16) : Option Handler :=
  firstMatch cc pid (handlerTable p)

/-- The operation an RDM message's key selects (R107, R108). -/
def decodeRdmKey (p : Params) (cc : Byte) (pid : Word16) : Instr :=
  match lookupHandler p cc pid with
  | some h => h.instr
  | none => .rdmNomatch cc pid

/-! ## Level 3: events (R111, operand layout of log 2) -/

/-- Why bytes name no operation. -/
inductive DecodeError where
  /-- There is no byte to decode. -/
  | empty
  /-- The bytes end inside the operands. -/
  | truncated
  /-- The selector is none of R111's (U7). -/
  | unknownSelector (b : Byte)
  /-- The argument of `setMode` is none of the three modes (U8). -/
  | unknownMode (b : Byte)
  /-- A time sample does not fit `TIME_W` bits (R42). -/
  | timeTooWide
  /-- Bytes are left over after the operands. -/
  | trailing
deriving DecidableEq, Repr

/-- How many bytes carry a `TIME_W`-bit sample. -/
def Params.timeBytes (p : Params) : Nat := (p.timeW + 7) / 8

/-- The first `n` bytes and the rest. -/
def takeBytes (n : Nat) (bs : List Byte) : Except DecodeError (List Byte × List Byte) :=
  if bs.length < n then .error .truncated else .ok (bs.take n, bs.drop n)

/-- An `n`-byte number and the rest. -/
def takeNat (n : Nat) (bs : List Byte) : Except DecodeError (Nat × List Byte) :=
  match takeBytes n bs with
  | .ok (v, rest) => .ok (natOfBytes v, rest)
  | .error e => .error e

/-- A time sample and the rest; refused when wider than `TIME_W`. -/
def takeTime (p : Params) (bs : List Byte) : Except DecodeError (Nat × List Byte) :=
  match takeNat p.timeBytes bs with
  | .ok (t, rest) => if t < 2 ^ p.timeW then .ok (t, rest) else .error .timeTooWide
  | .error e => .error e

/-- A byte string preceded by its 16-bit length, and the rest. -/
def takeString (bs : List Byte) : Except DecodeError (List Byte × List Byte) :=
  match takeNat 2 bs with
  | .ok (n, rest) => takeBytes n rest
  | .error e => .error e

/-- The mode numbers of R114. -/
def Mode.code : Mode → Byte
  | .off => 0
  | .input => 1
  | .output => 2

/-- The mode of a number, if it is one (U8). -/
def modeOf (b : Byte) : Option Mode :=
  if b = 0 then some .off else if b = 1 then some .input
  else if b = 2 then some .output else none

/-- The operands of `BRK`: two time samples and the byte string `during`. -/
def decodeBrk (p : Params) (bs : List Byte) : Except DecodeError (Instr × List Byte) :=
  match takeTime p bs with
  | .error e => .error e
  | .ok (tDisp, r1) =>
    match takeTime p r1 with
    | .error e => .error e
    | .ok (tResp, r2) =>
      match takeString r2 with
      | .error e => .error e
      | .ok (during, r3) => .ok (.brk tDisp tResp during, r3)

/-- The operand of `setMode`. -/
def decodeSetMode : List Byte → Except DecodeError (Instr × List Byte)
  | m :: rest =>
    match modeOf m with
    | some mode => .ok (.setMode mode, rest)
    | none => .error (.unknownMode m)
  | [] => .error .truncated

/-- The operands of `setChannel`: the 16-bit offset and the value. -/
def decodeSetChannel : List Byte → Except DecodeError (Instr × List Byte)
  | ah :: al :: v :: rest => .ok (.setChannel (be16 ah al) v, rest)
  | _ => .error .truncated

/-- The operands of `setChannels`: the 16-bit offset, the 16-bit count and that many bytes. -/
def decodeSetChannels : List Byte → Except DecodeError (Instr × List Byte)
  | sh :: sl :: nh :: nl :: rest =>
    match takeBytes (be16 nh nl).toNat rest with
    | .ok (vs, r) => .ok (.setChannels (be16 sh sl) (be16 nh nl) vs, r)
    | .error e => .error e
  | _ => .error .truncated

/-- An input event: the selector byte of R111, then its operands. -/
def decodeEvent (p : Params) : List Byte → Except DecodeError (Instr × List Byte)
  | [] => .error .empty
  | sel :: rest =>
    match sel.toNat with
    | 0x0 => .ok (.reset, rest)
    | 0x1 =>
      match rest with
      | b :: r => .ok (.rxbyte b, r)
      | [] => .error .truncated
    | 0x2 => decodeBrk p rest
    | 0x3 => .ok (.txdone, rest)
    | 0x4 => decodeSetMode rest
    | 0x5 => decodeSetChannel rest
    | 0x6 => decodeSetChannels rest
    | 0x7 => .ok (.getBuffer, rest)
    | 0x8 => .ok (.newFrame, rest)
    | 0x9 => .ok (.rdmChanged, rest)
    | 0xA => .ok (.isIdentify, rest)
    | 0xB => .ok (.getLabel, rest)
    | 0xC => .ok (.poll, rest)
    | _ => .error (.unknownSelector sel)

/-! ## The decoder and the encoder -/

/-- The operation at the head of a byte string, in one of the three encodings, and the rest. -/
def decode (p : Params) (sp : Space) (bs : List Byte) : Except DecodeError (Instr × List Byte) :=
  match sp with
  | .startCode =>
    match bs with
    | b :: rest => .ok ((startCodeOf b).instr, rest)
    | [] => .error .empty
  | .rdmMsg =>
    match bs with
    | cc :: ph :: pl :: rest => .ok (decodeRdmKey p cc (be16 ph pl), rest)
    | [] => .error .empty
    | _ => .error .truncated
  | .event => decodeEvent p bs

/-- One delivered event: its bytes hold exactly one event. -/
def decodePacket (p : Params) (bs : List Byte) : Except DecodeError Instr :=
  match decode p .event bs with
  | .ok (i, []) => .ok i
  | .ok (_, _ :: _) => .error .trailing
  | .error e => .error e

/-- The three bytes of a handler-table key: offsets 19 to 21 of the message (R92). -/
def keyBytes (cc : Byte) (pid : Word16) : List Byte := [cc, hi8 pid, lo8 pid]

/-- The bytes of an operation in its own encoding. -/
def encode (p : Params) : Instr → List Byte
  | .scDmx => [Config.scDmx]
  | .scRdm => [Config.scRdm]
  | .scOther s => [s]
  | .discUniqueBranch => keyBytes p.proto.ccDisc p.proto.pidDiscUniqueBranch
  | .discMute => keyBytes p.proto.ccDisc p.proto.pidDiscMute
  | .discUnMute => keyBytes p.proto.ccDisc p.proto.pidDiscUnMute
  | .getIdentifyDevice => keyBytes p.proto.ccGet p.proto.pidIdentifyDevice
  | .setIdentifyDevice => keyBytes p.proto.ccSet p.proto.pidIdentifyDevice
  | .getDeviceLabel => keyBytes p.proto.ccGet p.proto.pidDeviceLabel
  | .setDeviceLabel => keyBytes p.proto.ccSet p.proto.pidDeviceLabel
  | .getDmxStartAddress => keyBytes p.proto.ccGet p.proto.pidDmxStartAddress
  | .setDmxStartAddress => keyBytes p.proto.ccSet p.proto.pidDmxStartAddress
  | .getSupportedParameters => keyBytes p.proto.ccGet p.proto.pidSupportedParameters
  | .setSupportedParameters => keyBytes p.proto.ccSet p.proto.pidSupportedParameters
  | .getDeviceInfo => keyBytes p.proto.ccGet p.proto.pidDeviceInfo
  | .getManufacturerLabel => keyBytes p.proto.ccGet p.proto.pidManufacturerLabel
  | .getDeviceModelDescription => keyBytes p.proto.ccGet p.proto.pidDeviceModelDescription
  | .getSoftwareVersionLabel => keyBytes p.proto.ccGet p.proto.pidSoftwareVersionLabel
  | .rdmNomatch cc pid => keyBytes cc pid
  | .reset => [0x0]
  | .rxbyte b => [0x1, b]
  | .brk tDisp tResp during =>
    [0x2] ++ bytesOfNat p.timeBytes tDisp ++ bytesOfNat p.timeBytes tResp ++
      bytesOfNat 2 during.length ++ during
  | .txdone => [0x3]
  | .setMode m => [0x4, m.code]
  | .setChannel a v => [0x5, hi8 a, lo8 a, v]
  | .setChannels s n vs => [0x6, hi8 s, lo8 s, hi8 n, lo8 n] ++ vs
  | .getBuffer => [0x7]
  | .newFrame => [0x8]
  | .rdmChanged => [0x9]
  | .isIdentify => [0xA]
  | .getLabel => [0xB]
  | .poll => [0xC]

/-! ## Words numbered as spec/opcode_table.json numbers them -/

/-- Which encoding a table word of `nbits` bits is of. Where an 8-bit word could be both a start
code and an event selector, the row with more fixed bits wins: `SC_DMX` before `RESET`, an event
before `SC_OTHER` (log 3). -/
def tableSpace (nbits w : Nat) : Option Space :=
  if nbits = 24 then some .rdmMsg
  else if nbits = 4 then some .event
  else if nbits = 8 then
    if 1 ≤ w ∧ w ≤ 0xC then some .event else some .startCode
  else none

/-- How many operand bytes an event has when every operand bit is 0. -/
def zeroOperandBytes (p : Params) (sel : Nat) : Nat :=
  match sel with
  | 0x1 => 1
  | 0x2 => p.timeBytes + p.timeBytes + 2
  | 0x4 => 1
  | 0x5 => 3
  | 0x6 => 4
  | _ => 0

/-- The bytes of a table word, its operand bits zero, as the encoding lays them out. -/
def tableBytes (p : Params) (sp : Space) (w : Nat) : List Byte :=
  match sp with
  | .startCode => bytesOfNat 1 w
  | .rdmMsg => bytesOfNat 3 w
  | .event => bytesOfNat 1 w ++ List.replicate (zeroOperandBytes p w) 0

/-- The operation the decoder reads from a table word, with the default protocol numbers, which are
the table's (R8). -/
def decodeTableWord (nbits w : Nat) : Option Instr :=
  match tableSpace nbits w with
  | none => none
  | some sp =>
    match decode Config.device sp (tableBytes Config.device sp w) with
    | .ok (i, _) => some i
    | .error _ => none

end Sys2Proof
end

