-- ==== Sys2Proof/Machine/State.lean ====
section
/-! DEFINITION. The state of one engine instance and of its interfaces (spec 10_state.md), plain
data; the reasons a step stops; the state right after `RESET` (R49, R320). -/

namespace Sys2Proof.Machine

/-- The frame sequencer (R21). -/
inductive Fsm where
  | idle | brk | dmxRecv | rdmRecv | dmxComplete | dmxTx
deriving DecidableEq, Repr

/-- The output actions (R43). -/
inductive Action where
  /-- `CFG(t)`: set the line timing. -/
  | cfg (t : Timing)
  /-- `WR(b)`: queue a byte for transmission. -/
  | wr (b : Byte)
  /-- `FLUSH`: wait until every queued byte has left the wire. -/
  | flush
  /-- `DIR(d)`: set the line direction. -/
  | dir (d : Dir)
  /-- `WAIT(n)`: let `n` time units pass. -/
  | wait (n : Nat)
  /-- `STOP`: release the transport. -/
  | stop
deriving DecidableEq, Repr

/-- What a host call returns (R42). -/
inductive HostValue where
  | bool (b : Bool)
  | bytes (bs : List Byte)
deriving DecidableEq, Repr

/-- One entry of a trace (R17, R122): an input event, as its encoded bytes, or bytes that the
environment appends to the transport's receive queue without an event (R41). -/
inductive Delivery where
  | event (bytes : List Byte)
  | arrive (bytes : List Byte)
deriving DecidableEq, Repr

/-- The frame memory `FB` (R36, R60). `draw` holds the 1024 bytes it came up with at reset, "a draw
made once at reset" (R49); `cells` lists, by rising address, the bytes that differ from it. -/
structure Memory where
  draw : List Byte
  cells : List Host.Cell
deriving DecidableEq, Repr

/-- The state (R20) with the transport's state that the rules read and write (R41, R44, R45), the
parameters of the step function (R7 to R10), and the model's own fields. -/
structure State where
  /-- `FB`. -/
  mem : Memory
  /-- Which buffer is active (R24). -/
  act : BitVec 1
  fsm : Fsm
  /-- The buffer index, 0..512 (R23). -/
  idx : Nat
  mode : Mode
  /-- The frame counter, below 2^`FC_W` (R27). -/
  frameCount : Nat
  newFrameFlag : Bool
  rdmChangedFlag : Bool
  mute : Bool
  identify : Bool
  /-- The device label; its length is `labelLen` (R32). -/
  label : List Byte
  /-- The start address; when no configuration is attached the register does not exist and the
  field is 0 (R33). -/
  startAddr : Word16
  /-- The dispatch timestamp, below 2^`TIME_W` (R26). -/
  t0 : Nat
  /-- Interrupt suppression, 1 only inside `BRK` (R38). -/
  irqSuppress : Bool
  /-- The transport's receive queue, oldest byte first (R41). -/
  rxq : List Byte
  /-- The last `CFG` given to the transport (R44). -/
  lineTiming : Timing
  /-- The last `DIR` given to the transport (R44). -/
  lineDir : Dir
  /-- The transport's time counter as last sampled, below 2^`TIME_W` (R45). -/
  now : Nat
  /-- The parameters; no operation writes them (R34, R322). -/
  cfg : Params
  /-- The model's own: the rest of the trace (R17). -/
  inbox : List Delivery
  /-- The model's own: the output actions so far (R17). -/
  out : List Action
  /-- The model's own: the values host calls returned so far. -/
  returned : List HostValue
  /-- The model's own: how often unspecified values were drawn; the free values' argument. -/
  draws : Nat
deriving DecidableEq, Repr

/-- Why the machine stops with a fault. The hardware has none: "nothing is fatal" (R290). -/
inductive Fault where
  /-- Raised by `RXBYTE` and `TXDONE` when `idx` is no buffer offset where one is needed (R15, R71,
  U5). Safe: no state that satisfies the invariants of R39 raises it. -/
  | frameMemoryRange (idx : Nat)
deriving DecidableEq, Repr

/-- Why the machine gives an operation no meaning. -/
inductive Refusal where
  /-- Raised by an arm of `exec` whose instruction has no meaning yet. Safe. -/
  | notModelled (mnemonic : String)
  /-- Raised by `step` on an event's bytes that name no event (U7, U8). Safe: the spec's alphabet
  has no such event. -/
  | undecodable (e : DecodeError)
  /-- Raised by `setChannels` when the count is not the length of the bytes (U9). Safe: the spec
  takes them equal. -/
  | channelCount
  /-- Raised by the RDM commands and by `BRK` on an RDM message when a parameter or the label is
  longer than the spec's bounds (U6, U16). Safe: the spec requires the bounds. -/
  | parameterBounds
deriving DecidableEq, Repr

/-- The memory that came up with the given 1024 bytes, nothing written since. -/
def Memory.ofDraw (draw : List Byte) : Memory := { draw := draw, cells := [] }

/-- The register part of a reset (R49), for given parameters, memory, and number of unspecified
values drawn before; the free values stand for what R49 leaves unspecified (log 8). -/
def State.resetWith (cfg : Params) (mem : Memory) (draws : Nat) : State where
  mem := mem
  act := 0
  fsm := .idle
  idx := 0
  mode := .off
  frameCount := 0
  newFrameFlag := false
  rdmChangedFlag := false
  mute := false
  identify := false
  label := cfg.labelInit
  startAddr := match cfg.collab with
    | some c => c.startAddrInit
    | none => 0
  t0 := Config.unspecifiedTime (2 * draws) % 2 ^ cfg.timeW
  irqSuppress := false
  rxq := []
  lineTiming := Config.unspecifiedTiming draws
  lineDir := Config.unspecifiedDir draws
  now := Config.unspecifiedTime (2 * draws + 1) % 2 ^ cfg.timeW
  cfg := cfg
  inbox := []
  out := []
  returned := []
  draws := draws + 1

/-- The machine right after reset (R49, R320): the parameters of `Config.device`, every byte of the
frame memory at its power-up value, no event delivered. -/
def State.reset : State :=
  State.resetWith Config.device
    (Memory.ofDraw ((List.range Config.memSize).map Config.powerUpByte)) 0

end Sys2Proof.Machine
end

