-- ==== Sys2Proof/Machine/Ops.lean ====
section
/-! DEFINITION. The named operations over memory, registers and interfaces that the meanings share:
the frame memory (spec 20_memory.md), the output alphabet (R43), entry to and return from the break
finalisation (R301, R302), and the two "exceptions" of the engine, `raise Nack` and `raise Drop`
(R16), with `Respond(ACK)`: the Response Builder (spec 45_response_builder.md). -/

namespace Sys2Proof.Machine

/-- What an operation answers. -/
abbrev Result := Host.Outcome State Fault Refusal

/-- Go on from a next state; a stop stays a stop. -/
def andThen (r : Result) (k : State → Result) : Result :=
  match r with
  | .next s => k s
  | .fault f => .fault f
  | .refused e => .refused e

/-! ## The frame memory: one byte at a time (R60, R66) -/

/-- What an unlisted address reads as: the byte the memory came up with (R49, U1). -/
def Memory.unlisted (m : Memory) (a : Nat) : Byte := m.draw.getD a 0

/-- The byte listed at an address, if there is one. -/
def lookupCell : List Host.Cell → Nat → Option Byte
  | [], _ => none
  | (k, v) :: cs, a => if k = a then some v else lookupCell cs a

/-- `MemRead(a, 1)`: `FB[a]` (R15). -/
def Memory.read (m : Memory) (a : Nat) : Byte := (lookupCell m.cells a).getD (m.unlisted a)

/-- List a byte at an address, by rising address, in place of one listed there. -/
def insertCell : List Host.Cell → Nat → Byte → List Host.Cell
  | [], a, v => [(a, v)]
  | (k, w) :: cs, a, v =>
    if a < k then (a, v) :: (k, w) :: cs
    else if a = k then (a, v) :: cs
    else (k, w) :: insertCell cs a v

/-- List no byte at an address. -/
def eraseCell (cs : List Host.Cell) (a : Nat) : List Host.Cell :=
  cs.filter fun c => decide (c.1 ≠ a)

/-- `MemWrite(a, 1, v)` (R15), keeping the canonical form: a byte equal to what the unlisted address
reads as is not listed. -/
def Memory.write (m : Memory) (a : Nat) (v : Byte) : Memory :=
  { m with
    cells := if v = m.unlisted a then eraseCell m.cells a else insertCell m.cells a v }

/-- `MemReadBytes(a, n)`: in increasing address order (R15). -/
def Memory.readBytes (m : Memory) : Nat → Nat → List Byte
  | _, 0 => []
  | a, n + 1 => m.read a :: m.readBytes (a + 1) n

/-- `MemWriteBytes(a, bs)`: in increasing address order (R15). -/
def Memory.writeBytes (m : Memory) (a : Nat) : List Byte → Memory
  | [] => m
  | b :: bs => (m.write a b).writeBytes (a + 1) bs

/-- The addresses of a list of cells are strictly rising. -/
def rising : List Host.Cell → Bool
  | [] => true
  | (k, _) :: cs => cs.all (fun c => decide (k < c.1)) && rising cs

/-- The canonical form: 1024 drawn bytes; the cells by strictly rising address, each address in
0..1023, no byte equal to what its address would read as unlisted. -/
def Memory.wf (m : Memory) : Bool :=
  decide (m.draw.length = Config.memSize) && rising m.cells &&
  m.cells.all (fun c => decide (c.1 < Config.memSize) && decide (c.2 ≠ m.unlisted c.1))

/-! ## Role-to-physical translation (R62) -/

/-- `ACT(off) = act * 512 + off`, for `off` in 0..511. -/
def State.actAddr (s : State) (off : Nat) : Nat := s.act.toNat * 512 + off

/-- `INACT(off) = (1 - act) * 512 + off`, for `off` in 0..511. -/
def State.inactAddr (s : State) (off : Nat) : Nat := (1 - s.act.toNat) * 512 + off

/-- `A[k]`: the active buffer's byte at offset `k` (R15). -/
def State.peek (s : State) (k : Nat) : Byte := s.mem.read (s.actAddr k)

/-- The inactive buffer's byte at offset `k`. -/
def State.peekInactive (s : State) (k : Nat) : Byte := s.mem.read (s.inactAddr k)

/-- `MemWrite(ACT(k), 1, v)`. -/
def State.poke (s : State) (k : Nat) (v : Byte) : State :=
  { s with mem := s.mem.write (s.actAddr k) v }

/-- `MemReadBytes(ACT(k), n)`. -/
def State.peekBytes (s : State) (k n : Nat) : List Byte := s.mem.readBytes (s.actAddr k) n

/-- `MemWriteBytes(ACT(k), bs)`. -/
def State.pokeBytes (s : State) (k : Nat) (bs : List Byte) : State :=
  { s with mem := s.mem.writeBytes (s.actAddr k) bs }

/-- `MemRead(ACT(k), 2)` (R65). -/
def State.peek16 (s : State) (k : Nat) : Word16 := be16 (s.peek k) (s.peek (k + 1))

/-- `MemWrite(ACT(k), 2, v)` (R65). -/
def State.poke16 (s : State) (k : Nat) (v : Word16) : State := s.pokeBytes k [hi8 v, lo8 v]

/-- `MemRead(ACT(k), 6)` (R65). -/
def State.peek48 (s : State) (k : Nat) : Id48 :=
  be48 (s.peek k) (s.peek (k + 1)) (s.peek (k + 2)) (s.peek (k + 3)) (s.peek (k + 4))
    (s.peek (k + 5))

/-- Append a received byte at `idx` and increment `idx` (R131); an `idx` that is no offset is a
fault of the model (R15, U5). -/
def storeAtIdx (b : Byte) (s : State) : Result :=
  if s.idx < Config.bufSize then .next { s.poke s.idx b with idx := s.idx + 1 }
  else .fault (.frameMemoryRange s.idx)

/-- `Swap()`: the buffers exchange roles, no byte moves (R63). -/
def State.swap (s : State) : State := { s with act := 1 - s.act }

/-! ## Output actions (R16, R43, R44) -/

/-- The line timing after a list of actions. -/
def timingAfter (t : Timing) : List Action → Timing
  | [] => t
  | .cfg u :: as => timingAfter u as
  | .wr _ :: as | .flush :: as | .dir _ :: as | .wait _ :: as | .stop :: as => timingAfter t as

/-- The line direction after a list of actions. -/
def dirAfter (d : Dir) : List Action → Dir
  | [] => d
  | .dir e :: as => dirAfter e as
  | .wr _ :: as | .flush :: as | .cfg _ :: as | .wait _ :: as | .stop :: as => dirAfter d as

/-- `emit`, for a list of actions in order; the transport keeps the last `CFG` and `DIR`. -/
def State.emit (as : List Action) (s : State) : State :=
  { s with
    out := s.out ++ as
    lineTiming := timingAfter s.lineTiming as
    lineDir := dirAfter s.lineDir as }

/-- A host call returns a value. -/
def State.answer (v : HostValue) (s : State) : State := { s with returned := s.returned ++ [v] }

/-! ## Entry to and return from the break finalisation (R301, R302) -/

/-- Entry: interrupt delivery is suppressed; nothing is saved. -/
def enterFinalisation (s : State) : State := { s with irqSuppress := true }

/-- Return: armed for the next start code, whatever the outcome was. -/
def leaveFinalisation (s : State) : State :=
  { s with idx := 0, fsm := .brk, irqSuppress := false }

/-! ## The Response Builder (R250 to R257) -/

/-- How the builder is entered. -/
inductive ReplyKind where
  | ack
  | nack (reason : Word16)
deriving DecidableEq, Repr

/-- Time units since dispatch began, modulo 2^`TIME_W` (R251). -/
def State.elapsed (s : State) : Nat :=
  (s.now + 2 ^ s.cfg.timeW - s.t0 % 2 ^ s.cfg.timeW) % 2 ^ s.cfg.timeW

/-- Step 1, the response timer: wait out the remainder of the minimum gap (R251). -/
def waitMinGap (s : State) : State :=
  if s.elapsed < Config.minGap then s.emit [.wait (Config.minGap - s.elapsed)] else s

/-- Step 2, the response type; a NACK carries its reason and forces the data length to 2 (R252). -/
def setResponseType (kind : ReplyKind) (s : State) : State :=
  match kind with
  | .ack => s.poke 15 s.cfg.proto.rtAck
  | .nack reason =>
    ((s.poke 15 s.cfg.proto.rtNack).poke16 23 reason).poke 22 Config.nackPdl

/-- Step 3, the length: `dataLength + 24`, an 8-bit field (R253). -/
def setLength (s : State) : State := s.poke 1 (s.peek 22 + BitVec.ofNat 8 Config.rdmHdr)

/-- Step 4, addressing: the destination is the request's source, read first; the source is the
device's own id (R254). -/
def swapAddresses (s : State) : State :=
  (s.pokeBytes 2 (s.peekBytes 8 6)).pokeBytes 8 (idBytes s.cfg.uid)

/-- Step 5: the command class plus one, an 8-bit field (R255). -/
def bumpCommandClass (s : State) : State := s.poke 19 (s.peek 19 + 1)

/-- The checksum generator: the 16-bit sum of the RDM start code and the given bytes (R94, R256). -/
def checksum16 (bs : List Byte) : Word16 :=
  bs.foldl (fun cs b => cs + b.setWidth 16) (Config.scRdm.setWidth 16)

/-- Step 6: append the checksum of the `length` counted bytes at offsets `L-1`, `L` (R256). -/
def appendChecksum (s : State) : State :=
  let len := (s.peek 1).toNat
  s.poke16 (len - 1) (checksum16 (s.peekBytes 0 (len - 1)))

/-- The actions that put a break and then data bytes on the wire and restore reception (R233,
R257). -/
def burst (breakTiming : Timing) (bs : List Byte) : List Action :=
  [.dir .tx, .cfg breakTiming, .wr 0x00, .flush, .cfg .data] ++ bs.map .wr ++ [.flush, .dir .rx]

/-- Step 7, transmission: the start code, which the buffer does not hold, then offsets 0..`L`
(R257). -/
def transmitResponse (s : State) : State :=
  s.emit (burst .rdmBrk (Config.scRdm :: s.peekBytes 0 ((s.peek 1).toNat + 1)))

/-- `Build(kind)`: the seven steps in order (R250). -/
def build (kind : ReplyKind) (s : State) : State :=
  transmitResponse (appendChecksum (bumpCommandClass (swapAddresses (setLength
    (setResponseType kind (waitMinGap s))))))

/-- `Respond(ACK)` (R16, R250). -/
def respondAck (s : State) : State := build .ack s

/-- `raise Nack(reason)` (R16, R250). -/
def raiseNack (reason : Word16) (s : State) : State := build (.nack reason) s

/-- `raise Drop`: no response and no further state change (R16). -/
def raiseDrop (s : State) : State := s

/-- A handler's ACK: the data field, the data length, then `Respond(ACK)` (R250). -/
def ackWith (data : List Byte) (s : State) : State :=
  respondAck ((s.pokeBytes 23 data).poke 22 (BitVec.ofNat 8 data.length))

end Sys2Proof.Machine
end

