-- ==== Sys2Proof/Machine/Operands.lean ====
section
/-! DEFINITION. The operands of the operations: the fields of an RDM message laid over the active
buffer (R92, R95), the payloads handlers assemble (R97 to R105), the discovery reply (R98), the
image `setChannels` writes (R273). -/

namespace Sys2Proof.Machine

/-! ## Fields of the message in the active buffer (R92) -/

/-- `A[1]`, the total length. -/
def State.msgLength (s : State) : Byte := s.peek 1
/-- `A[2..7]`, the destination ID. -/
def State.destination (s : State) : Id48 := s.peek48 2
/-- `A[17..18]`, the sub-device. -/
def State.subDevice (s : State) : Word16 := s.peek16 17
/-- `A[19]`, the command class. -/
def State.commandClass (s : State) : Byte := s.peek 19
/-- `A[20..21]`, the parameter id. -/
def State.paramId (s : State) : Word16 := s.peek16 20
/-- `A[22]`, the data length (PDL). -/
def State.pdl (s : State) : Byte := s.peek 22
/-- `A[23..22+PDL]`, the data field. -/
def State.msgData (s : State) : List Byte := s.peekBytes 23 s.pdl.toNat
/-- The lower bound of a unique-branch range, `A[23..28]` (R97). -/
def State.branchLower (s : State) : Id48 := s.peek48 23
/-- The upper bound of a unique-branch range, `A[29..34]` (R97). -/
def State.branchUpper (s : State) : Id48 := s.peek48 29

/-- `isForMe`: the destination is the device's own id (R176). -/
def State.isForMe (s : State) : Bool := decide (s.destination = s.cfg.uid)

/-- Step 1 of the dispatcher: own id, manufacturer broadcast or all-devices broadcast (R176). -/
def State.accepted (s : State) : Bool :=
  s.isForMe || decide (s.destination = s.cfg.vcast) || decide (s.destination = s.cfg.bcast)

/-! ## Registers and configuration as the handlers read them -/

/-- The start address as read: 0 without a configuration (R33, R200). -/
def State.startAddrRead (s : State) : Word16 := if s.cfg.collab.isSome then s.startAddr else 0

/-- A configuration value, or a default without a configuration (R9). -/
def State.config (s : State) {α : Type} (f : Collaborator → α) (absent : α) : α :=
  match s.cfg.collab with
  | some c => f c
  | none => absent

/-- The identify flag as the byte GET returns (R100). -/
def State.identifyByte (s : State) : Byte := if s.identify then 1 else 0

/-! ## Payloads -/

/-- The two big-endian bytes of a 16-bit value (R65). -/
def word16Bytes (v : Word16) : List Byte := [hi8 v, lo8 v]

/-- The supported parameters: the three base ids, then the configuration's (R103). -/
def State.supportedPids (s : State) : List Word16 :=
  [s.cfg.basePids.1, s.cfg.basePids.2.1, s.cfg.basePids.2.2] ++ s.config (·.extraPids) []

/-- The 19 bytes of device info (R104; the layout is PRESUMED, log 17). -/
def State.deviceInfo (s : State) : List Byte :=
  [0x01, 0x00] ++ word16Bytes (s.config (·.modelId) 0) ++ word16Bytes s.cfg.productCategory ++
    word32Bytes s.cfg.swVersionId ++ word16Bytes (s.config (·.footprint) 0) ++ [1, 1] ++
    word16Bytes s.startAddrRead ++ [0, 0] ++ [0]

/-- Each byte twice, first OR 0xAA, then OR 0x55 (R98, R232). -/
def orMasked : List Byte → List Byte
  | [] => []
  | b :: bs => (b ||| Config.dubAa) :: (b ||| Config.dub55) :: orMasked bs

/-- The checksum of the discovery reply (R98, R232). -/
def dubChecksum (u : Id48) : Word16 :=
  (idBytes u).foldl (fun c b => c + b.setWidth 16) Config.dubCsBase

/-- `DubReply(u)`, 24 bytes (R232). -/
def dubReply (u : Id48) : List Byte :=
  List.replicate 7 Config.dubFe ++ [Config.dubAa] ++ orMasked (idBytes u) ++
    orMasked (word16Bytes (dubChecksum u))

/-- What `setChannels(s, vs, n)` writes at each of the 512 offsets (R273). -/
def channelImage (start n : Nat) (vs : List Byte) : List Byte :=
  (List.range Config.bufSize).map fun k =>
    if k < start then 0x00 else if k - start < n then vs.getD (k - start) 0x00 else 0x00

/-! ## Bounds the spec requires of parameters (U6, U16) -/

/-- The parameters and the label are within the bounds that keep every response within 231 data
bytes and every offset within the buffer. -/
def State.sizesOk (s : State) : Bool :=
  s.cfg.sizesOk && decide (s.label.length ≤ s.cfg.labelCap)

/-- Run an operation that needs the bounds; outside them the spec asks the model to refuse (U6). -/
def withinBounds (k : State → State) (s : State) : Result :=
  if s.sizesOk then .next (k s) else .refused .parameterBounds

end Sys2Proof.Machine
end

