-- ==== Sys2Proof/Machine/Flags.lean ====
section
/-! DEFINITION. The flags of the engine (spec 10_state.md R28 to R31) and how they are set, cleared
and read. -/

namespace Sys2Proof.Machine

/-- Set the "new frame" flag; set already, it stays set (R28). -/
def raiseNewFrame (s : State) : State := { s with newFrameFlag := true }

/-- Set the "RDM changed" flag, on a SET handler's ACK path only (R29, R209). -/
def raiseRdmChanged (s : State) : State := { s with rdmChangedFlag := true }

/-- The atomic test and clear of the "new frame" flag (R75, R275). -/
def takeNewFrame (s : State) : State :=
  { s.answer (.bool s.newFrameFlag) with newFrameFlag := false }

/-- The atomic test and clear of the "RDM changed" flag (R75, R276). -/
def takeRdmChanged (s : State) : State :=
  { s.answer (.bool s.rdmChangedFlag) with rdmChangedFlag := false }

/-- Set or clear the mute flag (R30). -/
def setMute (m : Bool) (s : State) : State := { s with mute := m }

/-- Write the identify flag (R31). -/
def setIdentify (v : Bool) (s : State) : State := { s with identify := v }

/-- Count one published frame, modulo 2^`FC_W` (R27). -/
def countFrame (s : State) : State :=
  { s with frameCount := (s.frameCount + 1) % 2 ^ s.cfg.fcW }

end Sys2Proof.Machine
end

