-- ==== Sys2Proof/Machine/Discovery.lean ====
section
/-! DEFINITION. The discovery commands (spec 44_rdm_discovery.md). None validates the sub-device and
none sends a NACK: when its conditions fail it does nothing (R230). -/

namespace Sys2Proof.Machine

/-- `RawSend()`: the raw path of the discovery reply, offsets 0..23 without start code and without
the response timer (R233). -/
def rawSend (s : State) : State := s.emit (burst .discBrk (s.peekBytes 0 24))

/-- `DISC_UNIQUE_BRANCH` (R231): silent while muted, malformed, or with `UID` out of range. -/
def discUniqueBranch (s : State) : State :=
  if s.mute then raiseDrop s
  else if s.msgLength ≠ Config.dubReqLen ∨ s.pdl ≠ Config.dubReqPdl then raiseDrop s
  else if s.branchLower ≤ s.cfg.uid ∧ s.cfg.uid ≤ s.branchUpper then
    rawSend (s.pokeBytes 0 (dubReply s.cfg.uid))
  else raiseDrop s

/-- The common text of mute and unmute: effective only if addressed to this device and without
payload; the ACK carries a 2-byte zero control field (R99, R234, R235). -/
def discSetMute (m : Bool) (s : State) : State :=
  if !s.isForMe || decide (s.pdl ≠ 0) then raiseDrop s
  else ackWith [0x00, 0x00] (setMute m s)

/-- `DISC_MUTE` (R234). -/
def discMute (s : State) : State := discSetMute true s

/-- `DISC_UN_MUTE` (R235). -/
def discUnMute (s : State) : State := discSetMute false s

/-- `DISC_UNIQUE_BRANCH` (R231). -/
def execDiscUniqueBranch (s : State) : Result := withinBounds discUniqueBranch s

/-- `DISC_MUTE` (R234). -/
def execDiscMute (s : State) : Result := withinBounds discMute s

/-- `DISC_UN_MUTE` (R235). -/
def execDiscUnMute (s : State) : Result := withinBounds discUnMute s

end Sys2Proof.Machine
end

