-- ==== Sys2Proof/Machine/Handlers.lean ====
section
/-! DEFINITION. The GET and SET handlers (spec 43_rdm_handlers.md). They answer requests addressed
to `UID` and to a broadcast ID alike (R210). -/

namespace Sys2Proof.Machine

/-- The data-length check of `Validate`, then `k` (R180). -/
def checkFormat (pdlOk : Byte → Bool) (k : State → State) (s : State) : State :=
  if pdlOk s.pdl then k s else raiseNack s.cfg.proto.nrFormatError s

/-- The sub-device check of `Validate`, then `k`: only 0 is accepted (R180). -/
def checkSubDevice (k : State → State) (s : State) : State :=
  if s.subDevice = 0 then k s else raiseNack s.cfg.proto.nrSubDeviceOutOfRange s

/-- `Validate(pdlOK)`, then `k`; `NACK_PRIORITY` orders the two checks (R180). -/
def validate (pdlOk : Byte → Bool) (k : State → State) (s : State) : State :=
  match s.cfg.nackPriority with
  | .formatFirst => checkFormat pdlOk (checkSubDevice k) s
  | .subdevFirst => checkSubDevice (checkFormat pdlOk k) s

/-- A GET handler: no request payload, an ACK with the given data. -/
def getHandler (data : State → List Byte) (s : State) : State :=
  validate (· = 0) (fun s => ackWith (data s) s) s

/-- The ACK of a SET handler: "RDM changed" is set, the response has no data (R209). -/
def ackSet (s : State) : State := ackWith [] (raiseRdmChanged s)

/-- `GET_IDENTIFY_DEVICE` (R196). -/
def getIdentifyDevice (s : State) : State := getHandler (fun s => [s.identifyByte]) s

/-- `SET_IDENTIFY_DEVICE` (R197): 0 or 1, else NACK "data out of range". -/
def setIdentifyDevice (s : State) : State :=
  validate (· = 1)
    (fun s =>
      if 1 < (s.peek 23).toNat then raiseNack s.cfg.proto.nrDataOutOfRange s
      else ackSet (setIdentify (decide (s.peek 23 = 1)) s))
    s

/-- `GET_DEVICE_LABEL` (R198). -/
def getDeviceLabel (s : State) : State := getHandler (·.label) s

/-- `SET_DEVICE_LABEL` (R199): at most `LABEL_CAP` bytes, taken from the buffer as they stand. -/
def setDeviceLabel (s : State) : State :=
  validate (fun n => decide (n.toNat ≤ s.cfg.labelCap))
    (fun s => ackSet { s with label := s.msgData }) s

/-- `GET_DMX_START_ADDRESS` (R200): 0 without a configuration. -/
def getDmxStartAddress (s : State) : State := getHandler (fun s => word16Bytes s.startAddrRead) s

/-- `SET_DMX_START_ADDRESS` (R201): the range check comes before the configuration check. -/
def setDmxStartAddress (s : State) : State :=
  validate (· = 2)
    (fun s =>
      if s.peek16 23 = 0 ∨ Config.startAddrMax < s.peek16 23 then
        raiseNack s.cfg.proto.nrDataOutOfRange s
      else if s.cfg.collab.isNone then raiseNack s.cfg.proto.nrHardwareFault s
      else ackSet { s with startAddr := s.peek16 23 })
    s

/-- `GET_SUPPORTED_PARAMETERS` (R202). -/
def getSupportedParameters (s : State) : State :=
  getHandler (fun s => s.supportedPids.flatMap word16Bytes) s

/-- `SET_SUPPORTED_PARAMETERS` (R203): always a NACK, nothing is checked first. -/
def setSupportedParameters (s : State) : State :=
  raiseNack s.cfg.proto.nrUnsupportedCommandClass s

/-- `GET_DEVICE_INFO` (R204). -/
def getDeviceInfo (s : State) : State := getHandler (·.deviceInfo) s

/-- `GET_MANUFACTURER_LABEL` (R205). -/
def getManufacturerLabel (s : State) : State := getHandler (·.config (·.mfrLabel) []) s

/-- `GET_DEVICE_MODEL_DESCRIPTION` (R206). -/
def getDeviceModelDescription (s : State) : State := getHandler (·.config (·.modelDesc) []) s

/-- `GET_SOFTWARE_VERSION_LABEL` (R207). -/
def getSoftwareVersionLabel (s : State) : State := getHandler (·.config (·.swLabel) []) s

/-- `RDM_NOMATCH`: the dispatcher's own NACK (R108, R176 step 3). -/
def rdmNomatch (_cc : Byte) (_pid : Word16) (s : State) : State :=
  raiseNack s.cfg.proto.nrUnknownPid s

/-- `GET_IDENTIFY_DEVICE` (R196). -/
def execGetIdentifyDevice (s : State) : Result := withinBounds getIdentifyDevice s

/-- `SET_IDENTIFY_DEVICE` (R197). -/
def execSetIdentifyDevice (s : State) : Result := withinBounds setIdentifyDevice s

/-- `GET_DEVICE_LABEL` (R198). -/
def execGetDeviceLabel (s : State) : Result := withinBounds getDeviceLabel s

/-- `SET_DEVICE_LABEL` (R199). -/
def execSetDeviceLabel (s : State) : Result := withinBounds setDeviceLabel s

/-- `GET_DMX_START_ADDRESS` (R200). -/
def execGetDmxStartAddress (s : State) : Result := withinBounds getDmxStartAddress s

/-- `SET_DMX_START_ADDRESS` (R201). -/
def execSetDmxStartAddress (s : State) : Result := withinBounds setDmxStartAddress s

/-- `GET_SUPPORTED_PARAMETERS` (R202). -/
def execGetSupportedParameters (s : State) : Result := withinBounds getSupportedParameters s

/-- `SET_SUPPORTED_PARAMETERS` (R203). -/
def execSetSupportedParameters (s : State) : Result := withinBounds setSupportedParameters s

/-- `GET_DEVICE_INFO` (R204). -/
def execGetDeviceInfo (s : State) : Result := withinBounds getDeviceInfo s

/-- `GET_MANUFACTURER_LABEL` (R205). -/
def execGetManufacturerLabel (s : State) : Result := withinBounds getManufacturerLabel s

/-- `GET_DEVICE_MODEL_DESCRIPTION` (R206). -/
def execGetDeviceModelDescription (s : State) : Result :=
  withinBounds getDeviceModelDescription s

/-- `GET_SOFTWARE_VERSION_LABEL` (R207). -/
def execGetSoftwareVersionLabel (s : State) : Result := withinBounds getSoftwareVersionLabel s

/-- `RDM_NOMATCH` (R108, R176). -/
def execRdmNomatch (cc : Byte) (pid : Word16) (s : State) : Result :=
  withinBounds (rdmNomatch cc pid) s

end Sys2Proof.Machine
end

