-- ==== Sys2Proof/Machine/StartCodes.lean ====
section
/-! DEFINITION. The three start codes (spec 30_encoding.md R106, 40_receive.md R131). The start-code
table is consulted only in input mode with `fsm = BREAK`; elsewhere a row of it has no effect
(log 14). -/

namespace Sys2Proof.Machine

/-- The first byte after a break moves the sequencer; it is not stored and `idx` stays (R131). -/
def afterStartCode (next : Fsm) (s : State) : State :=
  if s.mode = .input ∧ s.fsm = .brk then { s with fsm := next } else s

/-- 0x00: a DMX frame follows. -/
def startDmx (s : State) : State := afterStartCode .dmxRecv s

/-- 0xCC: an RDM message follows. -/
def startRdm (s : State) : State := afterStartCode .rdmRecv s

/-- Any other byte: the frame is discarded, a framing error of class (a) (R291). -/
def startOther (_b : Byte) (s : State) : State := afterStartCode .idle s

/-- The effect of a decoded start code. -/
def runStartCode (c : StartCode) (s : State) : State :=
  match c with
  | .dmx => startDmx s
  | .rdm => startRdm s
  | .other b => startOther b s

/-- `SC_DMX` (R106, R131). -/
def execScDmx (s : State) : Result := .next (startDmx s)

/-- `SC_RDM` (R106, R131). -/
def execScRdm (s : State) : Result := .next (startRdm s)

/-- `SC_OTHER` (R106, R131, R291). -/
def execScOther (b : Byte) (s : State) : Result := .next (startOther b s)

end Sys2Proof.Machine
end

