-- ==== Sys2Proof/Machine/RdmDispatch.lean ====
section
/-! DEFINITION. The RDM command dispatcher (spec 42_rdm_dispatch.md): from a received message in the
active buffer to the handler its key selects. -/

namespace Sys2Proof.Machine

/-- The behaviour of a handler-table entry (R35, R107). -/
def runHandler (h : Handler) (s : State) : State :=
  match h with
  | .discUniqueBranch => discUniqueBranch s
  | .discMute => discMute s
  | .discUnMute => discUnMute s
  | .getIdentifyDevice => getIdentifyDevice s
  | .setIdentifyDevice => setIdentifyDevice s
  | .getDeviceLabel => getDeviceLabel s
  | .setDeviceLabel => setDeviceLabel s
  | .getDmxStartAddress => getDmxStartAddress s
  | .setDmxStartAddress => setDmxStartAddress s
  | .getSupportedParameters => getSupportedParameters s
  | .setSupportedParameters => setSupportedParameters s
  | .getDeviceInfo => getDeviceInfo s
  | .getManufacturerLabel => getManufacturerLabel s
  | .getDeviceModelDescription => getDeviceModelDescription s
  | .getSoftwareVersionLabel => getSoftwareVersionLabel s

/-- Steps 2 and 3: the first matching handler, or the NACK of an unknown parameter (R176). -/
def runCommand (s : State) : State :=
  match lookupHandler s.cfg s.commandClass s.paramId with
  | some h => runHandler h s
  | none => rdmNomatch s.commandClass s.paramId s

/-- Dispatch begins: the time is sampled into `t0` (R26, R176). -/
def beginDispatch (tDisp : Nat) (s : State) : State :=
  { s with now := tDisp % 2 ^ s.cfg.timeW, t0 := tDisp % 2 ^ s.cfg.timeW }

/-- The transport's time when the Response Builder is entered (R45, R251). -/
def atResponse (tResp : Nat) (s : State) : State := { s with now := tResp % 2 ^ s.cfg.timeW }

/-- `RdmDispatch(t_disp, t_resp)` (R176): a message for another destination is ignored. -/
def rdmDispatch (tDisp tResp : Nat) (s : State) : State :=
  let s := beginDispatch tDisp s
  if s.accepted then runCommand (atResponse tResp s) else raiseDrop s

end Sys2Proof.Machine
end

