-- ==== Sys2Proof/Machine/Receive.lean ====
section
/-! DEFINITION. The receive state machine (spec 40_receive.md): `RXBYTE`, `Drain()`, `BRK`. -/

namespace Sys2Proof.Machine

/-- `RXBYTE(b)` (R131): the byte leaves the queue in every case; only input mode looks at it. -/
def rxByte (b : Byte) (s : State) : Result :=
  let s := { s with rxq := s.rxq.tail }
  match s.mode with
  | .off | .output => .next s
  | .input =>
    match s.fsm with
    | .brk => .next (runStartCode (startCodeOf b) s)
    | .dmxRecv =>
      andThen (storeAtIdx b s) fun s =>
        .next (if s.idx = Config.bufSize then { s with fsm := .dmxComplete } else s)
    | .rdmRecv =>
      andThen (storeAtIdx b s) fun s =>
        .next (if s.idx = Config.bufSize then { s with fsm := .idle } else s)
    | .idle | .dmxComplete | .dmxTx => .next s

/-- `RXBYTE` of each byte in turn, as long as none stops. -/
def rxBytes : List Byte → State → Result
  | [], s => .next s
  | b :: bs, s => andThen (rxByte b s) (rxBytes bs)

/-- `Drain()` (R132): every queued byte through the byte-receive path, oldest first. -/
def drain (s : State) : Result := rxBytes s.rxq s

/-- The bytes delivered while a dispatch runs: each is appended to the queue and taken from it
(R140, R143). -/
def deliverDuring : List Byte → State → Result
  | [], s => .next s
  | b :: bs, s => andThen (rxByte b { s with rxq := s.rxq ++ [b] }) (deliverDuring bs)

/-- The swap arm of the finalisation: publish the frame (R140). -/
def publishFrame (s : State) : State := raiseNewFrame (countFrame s.swap)

/-- The RDM arm of the finalisation: force `IDLE`, dispatch with interrupts deliverable, and take
the bytes that arrive meanwhile (R140, R141). -/
def finaliseRdm (tDisp tResp : Nat) (during : List Byte) (s : State) : Result :=
  andThen
    (withinBounds (rdmDispatch tDisp tResp) { s with fsm := .idle, irqSuppress := false })
    fun s =>
      andThen (deliverDuring during s) fun s => .next { s with irqSuppress := true }

/-- The finalisation after the drain, by the value `fsm` has then (R140). -/
def finalise (tDisp tResp : Nat) (during : List Byte) (s : State) : Result :=
  match s.fsm with
  | .dmxRecv | .dmxComplete => .next (publishFrame s)
  | .rdmRecv => finaliseRdm tDisp tResp during s
  | .idle | .brk | .dmxTx => .next s

/-- `BRK(t_disp, t_resp, during)` (R140). -/
def breakDetected (tDisp tResp : Nat) (during : List Byte) (s : State) : Result :=
  if s.mode = .input then
    andThen (drain (enterFinalisation s)) fun s =>
      andThen (finalise tDisp tResp during s) fun s => .next (leaveFinalisation s)
  else .next s

/-- `RXBYTE` (R131). -/
def execRxbyte (b : Byte) (s : State) : Result := rxByte b s

/-- `BRK` (R140). -/
def execBrk (tDisp tResp : Nat) (during : List Byte) (s : State) : Result :=
  breakDetected tDisp tResp during s

end Sys2Proof.Machine
end

