-- ==== Sys2Proof/Machine/HostCalls.lean ====
section
/-! DEFINITION. The application interface (spec 46_host_interface.md) and `RESET` (spec
70_reset_and_hazards.md R320). -/

namespace Sys2Proof.Machine

/-- `RESET` (R320): every element takes its reset value, the frame memory keeps its content (U26);
what was emitted, returned and not yet delivered is no state of the engine and stays. -/
def execReset (s : State) : Result :=
  .next { State.resetWith s.cfg s.mem s.draws with
    inbox := s.inbox, out := s.out, returned := s.returned }

/-- `setMode(m)` (R271): the pump is re-armed, whatever the mode was. -/
def execSetMode (m : Mode) (s : State) : Result :=
  match m with
  | .off => .next { s.emit [.stop] with mode := m, idx := 0, fsm := .idle }
  | .input => .next { s.emit [.cfg .data, .dir .rx] with mode := m, idx := 0, fsm := .idle }
  | .output =>
    .next { s.emit [.dir .tx, .cfg .brk, .wr 0x00] with mode := m, idx := 0, fsm := .brk }

/-- `setChannel(a, v)` (R272): an address of 512 or above is ignored. -/
def execSetChannel (a : Word16) (v : Byte) (s : State) : Result :=
  .next (if a.toNat < Config.bufSize then s.poke a.toNat v else s)

/-- `setChannels(s, vs, n)` (R273): all 512 bytes of the active buffer are written. -/
def execSetChannels (start n : Word16) (vs : List Byte) (s : State) : Result :=
  if n.toNat = vs.length then .next (s.pokeBytes 0 (channelImage start.toNat n.toNat vs))
  else .refused .channelCount

/-- `getBuffer()` (R274): a copy of the inactive buffer. -/
def execGetBuffer (s : State) : Result :=
  .next (s.answer (.bytes (s.mem.readBytes (s.inactAddr 0) Config.bufSize)))

/-- `newFrame()` (R275). -/
def execNewFrame (s : State) : Result := .next (takeNewFrame s)

/-- `rdmChanged()` (R276). -/
def execRdmChanged (s : State) : Result := .next (takeRdmChanged s)

/-- `isIdentify()` (R277). -/
def execIsIdentify (s : State) : Result := .next (s.answer (.bool s.identify))

/-- `getLabel()` (R278). -/
def execGetLabel (s : State) : Result := .next (s.answer (.bytes s.label))

/-- `poll()` (R279): drains in input mode, never finalises a frame. -/
def execPoll (s : State) : Result := if s.mode = .input then drain s else .next s

end Sys2Proof.Machine
end

