-- ==== Sys2Proof/Machine/Transmit.lean ====
section
/-! DEFINITION. The transmit pump (spec 41_transmit.md). -/

namespace Sys2Proof.Machine

/-- The start code of a transmitted frame, at data timing (R161). -/
def sendStartCode (s : State) : State :=
  { s.emit [.cfg .data, .wr Config.scDmx] with fsm := .dmxTx }

/-- The break between transmitted frames (R161). -/
def sendBreak (s : State) : State :=
  { s.emit [.cfg .brk, .wr 0x00] with idx := 0, fsm := .brk }

/-- One slot of a transmitted frame (R161); an `idx` past the end is a fault of the model (U5). -/
def sendSlot (s : State) : Result :=
  if s.idx < Config.bufSize then .next { s.emit [.wr (s.peek s.idx)] with idx := s.idx + 1 }
  else .fault (.frameMemoryRange s.idx)

/-- `TXDONE` (R161): exactly one more byte, in output mode only. -/
def execTxdone (s : State) : Result :=
  match s.mode with
  | .off | .input => .next s
  | .output =>
    match s.fsm with
    | .brk => .next (sendStartCode s)
    | .dmxTx => if s.idx = Config.bufSize then .next (sendBreak s) else sendSlot s
    | .idle | .dmxRecv | .rdmRecv | .dmxComplete => .next s

end Sys2Proof.Machine
end

