-- ==== Sys2Proof/Machine/Dispatch.lean ====
section
/-! DEFINITION. The meaning of every operation: one arm per constructor of `Instr`. -/

namespace Sys2Proof.Machine

def exec (i : Instr) (s : State) : Host.Outcome State Fault Refusal :=
  match i with
  | .scDmx => Sys2Proof.Machine.execScDmx s
  | .scRdm => Sys2Proof.Machine.execScRdm s
  | .scOther b => Sys2Proof.Machine.execScOther b s
  | .discUniqueBranch => Sys2Proof.Machine.execDiscUniqueBranch s
  | .discMute => Sys2Proof.Machine.execDiscMute s
  | .discUnMute => Sys2Proof.Machine.execDiscUnMute s
  | .getIdentifyDevice => Sys2Proof.Machine.execGetIdentifyDevice s
  | .setIdentifyDevice => Sys2Proof.Machine.execSetIdentifyDevice s
  | .getDeviceLabel => Sys2Proof.Machine.execGetDeviceLabel s
  | .setDeviceLabel => Sys2Proof.Machine.execSetDeviceLabel s
  | .getDmxStartAddress => Sys2Proof.Machine.execGetDmxStartAddress s
  | .setDmxStartAddress => Sys2Proof.Machine.execSetDmxStartAddress s
  | .getSupportedParameters => Sys2Proof.Machine.execGetSupportedParameters s
  | .setSupportedParameters => Sys2Proof.Machine.execSetSupportedParameters s
  | .getDeviceInfo => Sys2Proof.Machine.execGetDeviceInfo s
  | .getManufacturerLabel => Sys2Proof.Machine.execGetManufacturerLabel s
  | .getDeviceModelDescription => Sys2Proof.Machine.execGetDeviceModelDescription s
  | .getSoftwareVersionLabel => Sys2Proof.Machine.execGetSoftwareVersionLabel s
  | .rdmNomatch cc pid => Sys2Proof.Machine.execRdmNomatch cc pid s
  | .reset => Sys2Proof.Machine.execReset s
  | .rxbyte b => Sys2Proof.Machine.execRxbyte b s
  | .brk tDisp tResp during => Sys2Proof.Machine.execBrk tDisp tResp during s
  | .txdone => Sys2Proof.Machine.execTxdone s
  | .setMode m => Sys2Proof.Machine.execSetMode m s
  | .setChannel a v => Sys2Proof.Machine.execSetChannel a v s
  | .setChannels start n vs => Sys2Proof.Machine.execSetChannels start n vs s
  | .getBuffer => Sys2Proof.Machine.execGetBuffer s
  | .newFrame => Sys2Proof.Machine.execNewFrame s
  | .rdmChanged => Sys2Proof.Machine.execRdmChanged s
  | .isIdentify => Sys2Proof.Machine.execIsIdentify s
  | .getLabel => Sys2Proof.Machine.execGetLabel s
  | .poll => Sys2Proof.Machine.execPoll s

end Sys2Proof.Machine
end

