-- ==== Sys2Proof/Machine/Trace.lean ====
section
/-! DEFINITION. Traces (spec 00_scope.md R17, 30_encoding.md R122, R123), how the next entry of one
is fetched, how a word of spec/opcode_table.json is staged as the next operation, and the spec's
numberings of its enumerations (R112, R114). -/

namespace Sys2Proof.Machine

/-! ## Entries of a trace (R122) -/

/-- An event, encoded. -/
def eventOf (p : Params) (i : Instr) : Delivery := .event (encode p i)

/-- `RX hh`: the byte is appended to `rxq`, then delivered. -/
def traceRx (p : Params) (b : Byte) : List Delivery := [.arrive [b], eventOf p (.rxbyte b)]

/-- `Q hh hh ...`: bytes received but not yet delivered. -/
def traceQ (bs : List Byte) : List Delivery := [.arrive bs]

/-- `BRK td tr / hh hh ...`. -/
def traceBrk (p : Params) (tDisp tResp : Nat) (during : List Byte) : List Delivery :=
  [eventOf p (.brk tDisp tResp during)]

/-- `DMXFRAME d0 d1 ...` (R123). -/
def dmxFrame (p : Params) (ds : List Byte) : List Delivery :=
  traceBrk p 0 0 [] ++ traceRx p Config.scDmx ++ ds.flatMap (traceRx p)

/-- `RDMMSG b0 b1 ...` (R123). -/
def rdmMsg (p : Params) (bs : List Byte) : List Delivery :=
  traceBrk p 0 0 [] ++ traceRx p Config.scRdm ++ bs.flatMap (traceRx p)

/-- The message bytes of `RDMREQ`, before the checksum (R123). -/
def rdmReqBody (dest src : Id48) (tn port mc : Byte) (sub : Word16) (cc : Byte) (pid : Word16)
    (data : List Byte) : List Byte :=
  [0x01, BitVec.ofNat 8 (24 + data.length)] ++ idBytes dest ++ idBytes src ++ [tn, port, mc] ++
    word16Bytes sub ++ [cc] ++ word16Bytes pid ++ [BitVec.ofNat 8 data.length] ++ data

/-- The message bytes of `RDMREQ`, its checksum last (R123). -/
def rdmReq (dest src : Id48) (tn port mc : Byte) (sub : Word16) (cc : Byte) (pid : Word16)
    (data : List Byte) : List Byte :=
  let body := rdmReqBody dest src tn port mc sub cc pid data
  body ++ word16Bytes (checksum16 body)

/-! ## Fetching the next entry -/

/-- Take the next entry of the trace and run it. With none pending the engine waits: its state stays
as it is until an event comes (U12). -/
def fetchAndRun (s : State) : Result :=
  match s.inbox with
  | [] => .next s
  | .arrive bs :: rest => .next { s with inbox := rest, rxq := s.rxq ++ bs }
  | .event bytes :: rest =>
    match decodePacket s.cfg bytes with
    | .ok i => exec i { s with inbox := rest }
    | .error e => .refused (.undecodable e)

/-! ## Staging a word of spec/opcode_table.json (log 1) -/

/-- Put an encoded event first in the trace. -/
def stageEvent (bytes : List Byte) (s : State) : State := { s with inbox := .event bytes :: s.inbox }

/-- Stage a start code: input mode, just after a break, the byte in the queue and its notification
next. -/
def stageStartCode (b : Byte) (s : State) : State :=
  stageEvent (encode s.cfg (.rxbyte b))
    { s with mode := .input, fsm := .brk, idx := 0, rxq := [b] }

/-- Stage an RDM command: input mode, inside an RDM message addressed to this device whose key is
given and whose other bytes are 0, the closing break next. -/
def stageRdm (key : List Byte) (s : State) : State :=
  stageEvent (encode s.cfg (.brk 0 0 []))
    (({ s with mode := .input, fsm := .rdmRecv, idx := 25, rxq := [] } : State).pokeBytes 0
      ([0, 0] ++ idBytes s.cfg.uid ++ List.replicate 11 0 ++ key ++ [0, 0, 0]))

/-- Stage a table word of a known encoding. -/
def stage (sp : Space) (w : Nat) (s : State) : State :=
  match sp with
  | .startCode => stageStartCode (BitVec.ofNat 8 w) s
  | .rdmMsg => stageRdm (tableBytes s.cfg .rdmMsg w) s
  | .event =>
    if w = 0x1 then stageEvent (tableBytes s.cfg .event w) { s with rxq := [0] }
    else stageEvent (tableBytes s.cfg .event w) s

/-! ## Numberings (R112, R114); unobservable -/

/-- The numbers of `fsm` (R114). -/
def Fsm.code : Fsm → Nat
  | .idle => 0
  | .brk => 1
  | .dmxRecv => 2
  | .rdmRecv => 3
  | .dmxComplete => 4
  | .dmxTx => 5

/-- The numbers of the output actions (R112). -/
def Action.code : Action → Nat
  | .cfg _ => 0
  | .wr _ => 1
  | .flush => 2
  | .dir _ => 3
  | .wait _ => 4
  | .stop => 5

/-- The numbers of the timings (R112). -/
def timingCode : Timing → Nat
  | .data => 0
  | .brk => 1
  | .rdmBrk => 2
  | .discBrk => 3

/-- The numbers of the directions (R112). -/
def dirCode : Dir → Nat
  | .rx => 0
  | .tx => 1

end Sys2Proof.Machine
end

