-- ==== Sys2Proof/Machine/Step.lean ====
section
/-! DEFINITION. One step of the machine: the next entry of the trace (R17, R73); and a word of
spec/opcode_table.json placed as that entry. -/

namespace Sys2Proof.Machine

/-- One step. -/
def step (s : State) : Host.Outcome State Fault Refusal := fetchAndRun s

/-- The state whose next step runs the operation of a table word (log 1). A word of no encoding is
delivered as it is and refused by the decoder. -/
def State.withFetchWord (s : State) (nbits w : Nat) : State :=
  match tableSpace nbits w with
  | some sp => stage sp w s
  | none => stageEvent (bytesOfNat (nbits / 8 + 1) w) s

end Sys2Proof.Machine
end

