-- ==== Sys2Proof/Safety.lean ====
section
/-! DEFINITION. The terms claims are stated in: the invariant of the reachable states (spec
10_state.md R39), a safe answer, what a standard response is (R92 to R96, R251 to R258), and the
sequencing of operations. -/

namespace Sys2Proof.Machine

/-- The invariants of R39, with the ranges of the registers held as natural numbers, the canonical
form of the memory, and the bounds the spec requires of the parameters (U15 to U17). -/
structure State.Inv (s : State) : Prop where
  memWf : s.mem.wf = true
  cfgWf : s.cfg.wf = true
  /-- R39 item 1. -/
  idxLe : s.idx ≤ 512
  /-- R39 item 2. -/
  brkIdx : s.fsm = .brk → s.idx = 0
  /-- R39 item 3. -/
  completeIdx : s.fsm = .dmxComplete → s.idx = 512
  /-- R39 item 3. -/
  recvIdx : s.fsm = .dmxRecv ∨ s.fsm = .rdmRecv → s.idx ≤ 511
  /-- R39 item 4. -/
  outputFsm : s.mode = .output → s.fsm = .brk ∨ s.fsm = .dmxTx
  /-- R39 item 4. -/
  inputFsm : s.mode = .input → s.fsm ≠ .dmxTx
  /-- R39 item 4. -/
  offFsm : s.mode = .off → s.fsm = .idle
  /-- R39 item 5. -/
  labelLe : s.label.length ≤ s.cfg.labelCap
  /-- R39 item 5. -/
  startAddrRange : s.cfg.collab.isSome = true → 1 ≤ s.startAddr.toNat ∧ s.startAddr.toNat ≤ 512
  /-- Without a configuration the register does not exist (R33). -/
  startAddrAbsent : s.cfg.collab = none → s.startAddr = 0
  /-- R39 item 6. -/
  irqOff : s.irqSuppress = false
  frameCountLt : s.frameCount < 2 ^ s.cfg.fcW
  t0Lt : s.t0 < 2 ^ s.cfg.timeW
  nowLt : s.now < 2 ^ s.cfg.timeW

/-- A safe answer: the machine goes on in a state that keeps the invariants, or it refuses bytes
that name no event; it never faults. -/
def SafeAnswer : Result → Prop
  | .next t => t.Inv
  | .fault _ => False
  | .refused r => ∃ e, r = .undecodable e

/-- Operations one after another, as long as none stops. -/
def execAll : List Instr → State → Result
  | [], s => .next s
  | i :: is, s => andThen (exec i s) (execAll is)

/-! ## What a standard response is -/

/-- The message of a response to the request in the active buffer, offsets 0 up to the last data
byte: which fields are written and which inherited (R92, R252 to R255, R258). -/
def responseBody (s : State) (responseType : Byte) (data : List Byte) : List Byte :=
  [s.peek 0, BitVec.ofNat 8 (data.length + 24)] ++
    [s.peek 8, s.peek 9, s.peek 10, s.peek 11, s.peek 12, s.peek 13] ++ idBytes s.cfg.uid ++
    [s.peek 14, responseType, s.peek 16, s.peek 17, s.peek 18, s.peek 19 + 1, s.peek 20,
     s.peek 21, BitVec.ofNat 8 data.length] ++ data

/-- The message with its checksum, high byte first (R94). -/
def responseMessage (s : State) (responseType : Byte) (data : List Byte) : List Byte :=
  responseBody s responseType data ++ word16Bytes (checksum16 (responseBody s responseType data))

/-- The wait of the response timer, if there is one (R251). -/
def timerActions (s : State) : List Action :=
  if s.elapsed < 176 then [.wait (176 - s.elapsed)] else []

/-- `t` is `s` after the response with the given type and data: the message stands in the active
buffer, every other byte of memory is as before, exactly the wait and the burst were emitted, and
nothing else changed but the transport's line state. -/
structure Responded (s t : State) (responseType : Byte) (data : List Byte) : Prop where
  message : t.peekBytes 0 (data.length + 25) = responseMessage s responseType data
  memory : ∀ a, a < s.actAddr 0 ∨ s.actAddr (data.length + 25) ≤ a → t.mem.read a = s.mem.read a
  out : t.out = s.out ++ timerActions s ++
    burst .rdmBrk (Config.scRdm :: responseMessage s responseType data)
  rest : t = { s with mem := t.mem, out := t.out, lineTiming := .data, lineDir := .rx }

/-- `t` is `s` after a NACK with the given reason (R96). -/
def Nacked (s t : State) (reason : Word16) : Prop :=
  Responded s t s.cfg.proto.rtNack (word16Bytes reason)

/-- The data lengths a GET or SET handler accepts; nothing for a command that does not begin with
`Validate` (R180, R293). -/
def acceptedPdl (p : Params) : Instr → Option (Byte → Bool)
  | .getIdentifyDevice | .getDeviceLabel | .getDmxStartAddress | .getSupportedParameters
  | .getDeviceInfo | .getManufacturerLabel | .getDeviceModelDescription
  | .getSoftwareVersionLabel => some fun n => decide (n = 0)
  | .setIdentifyDevice => some fun n => decide (n = 1)
  | .setDeviceLabel => some fun n => decide (n.toNat ≤ p.labelCap)
  | .setDmxStartAddress => some fun n => decide (n = 2)
  | .scDmx | .scRdm | .scOther _ | .discUniqueBranch | .discMute | .discUnMute
  | .setSupportedParameters | .rdmNomatch _ _ | .reset | .rxbyte _ | .brk _ _ _ | .txdone
  | .setMode _ | .setChannel _ _ | .setChannels _ _ _ | .getBuffer | .newFrame | .rdmChanged
  | .isIdentify | .getLabel | .poll => none

/-- The requests on which a SET handler takes its ACK path: sub-device 0, an accepted data length, a
value in range and, for the start address, a configuration (R197, R199, R201, R209). -/
def acceptsSet (s : State) : Instr → Bool
  | .setIdentifyDevice => decide (s.subDevice = 0 ∧ s.pdl = 1 ∧ (s.peek 23).toNat ≤ 1)
  | .setDeviceLabel => decide (s.subDevice = 0 ∧ s.pdl.toNat ≤ s.cfg.labelCap)
  | .setDmxStartAddress =>
    decide (s.subDevice = 0 ∧ s.pdl = 2 ∧ 1 ≤ (s.peek16 23).toNat ∧ (s.peek16 23).toNat ≤ 512) &&
      s.cfg.collab.isSome
  | .scDmx | .scRdm | .scOther _ | .discUniqueBranch | .discMute | .discUnMute
  | .getIdentifyDevice | .getDeviceLabel | .getDmxStartAddress | .getSupportedParameters
  | .setSupportedParameters | .getDeviceInfo | .getManufacturerLabel | .getDeviceModelDescription
  | .getSoftwareVersionLabel | .rdmNomatch _ _ | .reset | .rxbyte _ | .brk _ _ _ | .txdone
  | .setMode _ | .setChannel _ _ | .setChannels _ _ _ | .getBuffer | .newFrame | .rdmChanged
  | .isIdentify | .getLabel | .poll => false

/-- The registers that R49 leaves unspecified at reset, given other values (U2, U3). -/
def withUnspecified (t0 now : Nat) (timing : Timing) (dir : Dir) (s : State) : State :=
  { s with t0 := t0, now := now, lineTiming := timing, lineDir := dir }

/-- An answer with those registers blotted out. -/
def blotted : Result → Result
  | .next s => .next (withUnspecified 0 0 .data .rx s)
  | .fault f => .fault f
  | .refused r => .refused r

end Sys2Proof.Machine
end

