-- ==== Sys2Proof/Certificates/Slice0/Obligations.lean ====
section
/-! DEFINITION. The statements about the model, for the provers. Where a docstring names a decision
(D<n>) of spec/92_eei_decisions.md, an item (U<n>) of spec/93_implementation_defined.md or a log
entry, the statement rests on that choice, and where it says "inferred", on an inference the spec
marks as its own; the rest is the source document's own. Where a statement has `exec` of an RDM
command, the command runs on its own, with `now` as the time of its response (log 14, log 24);
`BreakRunsTheSelectedCommand` carries it to the break that dispatches it. -/

open Sys2Proof Sys2Proof.Machine

/-! ## Encoding -/

/-- Decoding what an operation encodes to gives the operation and leaves what follows it, for every
operation, every operand its encoding admits, and every assignment of protocol numbers in which the
keys differ (R8). The layout of event operands is the model's (log 2). -/
def Obligations.DecodeOfEncodeIsIdentity : Prop :=
  ∀ (p : Params) (i : Instr) (rest : List Byte), p.proto.distinct = true →
    WellFormed p i = true → decode p i.space (encode p i ++ rest) = .ok (i, rest)

/-- What decodes is well formed, of the encoding asked for, and nothing of the bytes is lost; for
events the bytes are those of the model's own layout (log 2; R111 gives the selectors alone). -/
def Obligations.EncodeOfDecodeIsIdentity : Prop :=
  ∀ (p : Params) (sp : Space) (bs rest : List Byte) (i : Instr),
    decode p sp bs = .ok (i, rest) →
      i.space = sp ∧ WellFormed p i = true ∧ encode p i ++ rest = bs

/-- The order of the handler table cannot be observed, because its keys are distinct (R35,
inferred; the order written down is D32, the distinctness a duty of the parameters, U15). -/
def Obligations.HandlerTableOrderIsUnobservable : Prop :=
  ∀ (p : Params) (table : List ((Byte × Word16) × Handler)) (cc : Byte) (pid : Word16),
    p.proto.distinct = true → table.Perm (handlerTable p) →
      firstMatch cc pid table = lookupHandler p cc pid

/-- Words written out from the opcode map decode to the operations they stand for (R106, R107,
R111; the selectors are D2, the two missing SET entries D19, the default numbers D28 and log 5, the
mode numbers R114 and D9, the selector byte and the bytes of event operands log 2). -/
def Obligations.WordsOfTheOpcodeMapDecode : Prop :=
  decode Config.device .startCode [0x00] = .ok (.scDmx, []) ∧
  decode Config.device .startCode [0xCC] = .ok (.scRdm, []) ∧
  decode Config.device .startCode [0x17] = .ok (.scOther 0x17, []) ∧
  decode Config.device .rdmMsg [0x20, 0x10, 0x00] = .ok (.getIdentifyDevice, []) ∧
  decode Config.device .rdmMsg [0x30, 0x00, 0xF0] = .ok (.setDmxStartAddress, []) ∧
  decode Config.device .rdmMsg [0x10, 0x00, 0x01] = .ok (.discUniqueBranch, []) ∧
  decode Config.device .rdmMsg [0x30, 0x00, 0x60] = .ok (.rdmNomatch 0x30 0x0060, []) ∧
  decode Config.device .event [0x1, 0x7F] = .ok (.rxbyte 0x7F, []) ∧
  decode Config.device .event [0x4, 0x2] = .ok (.setMode .output, []) ∧
  decode Config.device .event [0x5, 0x01, 0xFF, 0x99] = .ok (.setChannel 511 0x99, [])

/-- A step runs the event whose bytes are next in the trace, on the state without them; bytes that
arrive are appended to the receive queue; with nothing pending nothing changes (the trace form is
the model's, log 1). -/
def Obligations.StepRunsTheDecodedEvent : Prop :=
  (∀ (s : State) (bytes : List Byte) (later : List Delivery) (i : Instr),
    s.inbox = .event bytes :: later → decodePacket s.cfg bytes = .ok i →
      step s = exec i { s with inbox := later }) ∧
  (∀ (s : State) (bs : List Byte) (later : List Delivery), s.inbox = .arrive bs :: later →
    step s = .next { s with inbox := later, rxq := s.rxq ++ bs }) ∧
  ∀ s : State, s.inbox = [] → step s = .next s

/-! ## Receive state machine -/

/-- After a break the next byte selects the frame kind (R106). Nothing is stored (R131), the head
of the queue is taken away, also where it is not that byte (R131, log 10), and the effect is that
of the start code's own operation, which is the model's (log 14). -/
def Obligations.StartCodeSelectsFrameKind : Prop :=
  ∀ (s : State) (b : Byte), s.mode = .input → s.fsm = .brk →
    exec (.rxbyte b) s = exec (startCodeOf b).instr { s with rxq := s.rxq.tail } ∧
    exec (.rxbyte b) s = .next { s with
      rxq := s.rxq.tail
      fsm := if b = 0x00 then .dmxRecv else if b = 0xCC then .rdmRecv else .idle }

/-- The start-code rows move the sequencer and nothing else (R106, R131). That they have no effect
where the start-code table is not consulted is the model's choice (log 14). -/
def Obligations.StartCodeRowsMoveTheSequencer : Prop :=
  (∀ s : State, s.mode = .input → s.fsm = .brk →
    exec .scDmx s = .next { s with fsm := .dmxRecv } ∧
    exec .scRdm s = .next { s with fsm := .rdmRecv } ∧
    ∀ b : Byte, b ≠ 0x00 → b ≠ 0xCC → exec (.scOther b) s = .next { s with fsm := .idle }) ∧
  ∀ s : State, s.mode ≠ .input ∨ s.fsm ≠ .brk →
    exec .scDmx s = .next s ∧ exec .scRdm s = .next s ∧ ∀ b : Byte, exec (.scOther b) s = .next s

/-- Inside a frame a byte is stored at `idx` and `idx` moves on; the 512th byte ends a DMX frame as
complete and discards an RDM message (R131). The head of the queue is taken away, also where it is
not that byte (log 10). No other byte of memory changes. -/
def Obligations.ReceivedByteIsStored : Prop :=
  ∀ (s : State) (b : Byte) (full : Fsm), s.mode = .input →
    (s.fsm = .dmxRecv ∧ full = .dmxComplete ∨ s.fsm = .rdmRecv ∧ full = .idle) → s.idx < 512 →
    ∃ t, exec (.rxbyte b) s = .next t ∧ t.peek s.idx = b ∧
      (∀ a, a ≠ s.actAddr s.idx → t.mem.read a = s.mem.read a) ∧
      t = { s with
        mem := t.mem
        rxq := s.rxq.tail
        idx := s.idx + 1
        fsm := if s.idx + 1 = 512 then full else s.fsm }

/-- Outside a frame, and outside input mode, a byte is only taken from the queue (R131, R297; D5,
D6, log 10). -/
def Obligations.ReceivedByteIsDropped : Prop :=
  ∀ (s : State) (b : Byte),
    s.mode ≠ .input ∨ s.fsm = .idle ∨ s.fsm = .dmxComplete ∨ s.fsm = .dmxTx →
      exec (.rxbyte b) s = .next { s with rxq := s.rxq.tail }

/-- An `idx` that is no buffer offset faults where one is needed, by name, and never wraps into the
other buffer (R15, R71 inferred, U5; log 13). No reachable state is such
(`StepNeverStopsOnAnEvent`). -/
def Obligations.IndexOutsideTheBufferFaults : Prop :=
  (∀ (s : State) (b : Byte), s.mode = .input → s.fsm = .dmxRecv ∨ s.fsm = .rdmRecv →
    512 ≤ s.idx → exec (.rxbyte b) s = .fault (.frameMemoryRange s.idx)) ∧
  ∀ s : State, s.mode = .output → s.fsm = .dmxTx → 512 < s.idx →
    exec .txdone s = .fault (.frameMemoryRange s.idx)

/-- Each byte drained at a break goes through the byte-receive path exactly as if its own
notification had been delivered (R132, inferred; the queue is D3). -/
def Obligations.BreakDrainsAsIfNotified : Prop :=
  ∀ (s u : State) (tDisp tResp : Nat) (during : List Byte), s.mode = .input →
    execAll (s.rxq.map .rxbyte) s = .next u →
      exec (.brk tDisp tResp during) s = exec (.brk tDisp tResp during) u

/-- `poll()` in input mode is the delivery of every queued byte, inside a frame stored in order
from `idx` on (here when they leave room in the buffer); elsewhere it does nothing and leaves the
queue alone (R131, R132, R279; D3, D34). -/
def Obligations.PollDeliversTheQueue : Prop :=
  (∀ s u : State, s.mode = .input → execAll (s.rxq.map .rxbyte) s = .next u →
    exec .poll s = .next u) ∧
  (∀ s : State, s.mode = .input → s.fsm = .dmxRecv ∨ s.fsm = .rdmRecv →
    s.idx + s.rxq.length < 512 →
    ∃ t, exec .poll s = .next t ∧ t.peekBytes s.idx s.rxq.length = s.rxq ∧
      (∀ a, a < s.actAddr s.idx ∨ s.actAddr (s.idx + s.rxq.length) ≤ a →
        t.mem.read a = s.mem.read a) ∧
      t = { s with mem := t.mem, idx := s.idx + s.rxq.length, rxq := [] }) ∧
  ∀ s : State, s.mode ≠ .input → exec .poll s = .next s

/-- The break that ends a DMX frame swaps the buffers, counts the frame, raises the flag and arms
the receiver; no byte of memory moves (R63, R140; the counter's width is D10). -/
def Obligations.BreakPublishesTheFrame : Prop :=
  ∀ (s : State) (tDisp tResp : Nat) (during : List Byte), s.mode = .input →
    s.fsm = .dmxRecv ∨ s.fsm = .dmxComplete → s.rxq = [] →
      exec (.brk tDisp tResp during) s = .next { s with
        act := 1 - s.act
        frameCount := (s.frameCount + 1) % 2 ^ s.cfg.fcW
        newFrameFlag := true
        idx := 0
        fsm := .brk
        irqSuppress := false }

/-- A break with no frame in progress only arms the receiver; outside input mode it has no effect
(R140; D6). -/
def Obligations.BreakWithoutFrameOnlyArms : Prop :=
  (∀ (s : State) (tDisp tResp : Nat) (during : List Byte), s.mode = .input →
    s.fsm = .idle ∨ s.fsm = .brk → s.rxq = [] →
      exec (.brk tDisp tResp during) s =
        .next { s with idx := 0, fsm := .brk, irqSuppress := false }) ∧
  ∀ (s : State) (tDisp tResp : Nat) (during : List Byte), s.mode ≠ .input →
    exec (.brk tDisp tResp during) s = .next s

/-- The break that ends an RDM message for this device runs exactly the command its key decodes to,
between the forced `IDLE` and the return to `BREAK`; bytes delivered meanwhile reach nothing (R140,
R143, R176; D35). The time samples stand in `t0` and `now` (log 24), and the command run on its own
is the model's operation (log 14). -/
def Obligations.BreakRunsTheSelectedCommand : Prop :=
  ∀ (s : State) (tDisp tResp : Nat) (during : List Byte), s.mode = .input → s.fsm = .rdmRecv →
    s.rxq = [] → s.sizesOk = true → s.accepted = true →
    ∃ u, exec (decodeRdmKey s.cfg s.commandClass s.paramId) { s with
        fsm := .idle
        irqSuppress := false
        t0 := tDisp % 2 ^ s.cfg.timeW
        now := tResp % 2 ^ s.cfg.timeW } = .next u ∧
      exec (.brk tDisp tResp during) s =
        .next { u with idx := 0, fsm := .brk, irqSuppress := false }

/-- A message for none of `UID`, `VCAST`, `BCAST` is ignored: nothing is sent and no byte of memory
changes (R176, R292). The dispatch sample is left in `t0` (R176), and in `now`, which is the
model's (log 24); the break's return sets `idx`, `fsm` and `irqSuppress` as always (R302); no other
register changes. -/
def Obligations.OtherDestinationsAreIgnored : Prop :=
  ∀ (s : State) (tDisp tResp : Nat) (during : List Byte), s.mode = .input → s.fsm = .rdmRecv →
    s.rxq = [] → s.sizesOk = true →
    s.peek48 2 ≠ s.cfg.uid → s.peek48 2 ≠ s.cfg.vcast → s.peek48 2 ≠ s.cfg.bcast →
      exec (.brk tDisp tResp during) s = .next { s with
        t0 := tDisp % 2 ^ s.cfg.timeW
        now := tDisp % 2 ^ s.cfg.timeW
        idx := 0
        fsm := .brk
        irqSuppress := false }

/-- Every break in input mode ends armed for the next start code, with the queue empty and
interrupts deliverable, whatever the message was (R302). -/
def Obligations.BreakAlwaysRearms : Prop :=
  ∀ (s : State) (tDisp tResp : Nat) (during : List Byte), s.Inv → s.mode = .input →
    ∃ t, exec (.brk tDisp tResp during) s = .next t ∧ t.fsm = .brk ∧ t.idx = 0 ∧
      t.irqSuppress = false ∧ t.rxq = [] ∧ t.mode = .input

/-- The 512 bytes after a DMX start code are what the application reads after the closing break, in
order, and the roles have swapped; bytes past the 512th are dropped (R145; D5). -/
def Obligations.FullFrameIsPublishedInOrder : Prop :=
  ∀ (s : State) (data surplus : List Byte) (tDisp tResp : Nat) (during : List Byte),
    s.mode = .input → s.fsm = .brk → s.idx = 0 → data.length = 512 →
    s.rxq = 0x00 :: (data ++ surplus) →
    ∃ t, exec (.brk tDisp tResp during) s = .next t ∧
      exec .getBuffer t = .next { t with returned := t.returned ++ [.bytes data] } ∧
      t = { s with
        mem := t.mem
        act := 1 - s.act
        frameCount := (s.frameCount + 1) % 2 ^ s.cfg.fcW
        newFrameFlag := true
        rxq := []
        irqSuppress := false }

/-- A short frame publishes its bytes over the old content of that buffer, and the frame published
before it becomes the active buffer, unchanged (R64 and R341, inferred). -/
def Obligations.ShortFramePublishesStaleTail : Prop :=
  ∀ (s : State) (data : List Byte) (tDisp tResp : Nat) (during : List Byte),
    s.mode = .input → s.fsm = .brk → s.idx = 0 → data.length ≤ 512 → s.rxq = 0x00 :: data →
    ∃ t, exec (.brk tDisp tResp during) s = .next t ∧ t.act = 1 - s.act ∧
      exec .getBuffer t = .next { t with
        returned := t.returned ++
          [.bytes (data ++ s.peekBytes data.length (512 - data.length))] } ∧
      t.peekBytes 0 512 = s.mem.readBytes (s.inactAddr 0) 512

/-- An RDM message that fills the buffer is discarded: its first 512 bytes stay in the active
buffer, it is never dispatched, nothing is sent and nothing published (R131, R291, R353). -/
def Obligations.OversizedMessageIsNeverDispatched : Prop :=
  ∀ (s : State) (data : List Byte) (tDisp tResp : Nat) (during : List Byte),
    s.mode = .input → s.fsm = .brk → s.idx = 0 → 512 ≤ data.length → s.rxq = 0xCC :: data →
    ∃ t, exec (.brk tDisp tResp during) s = .next t ∧ t.peekBytes 0 512 = data.take 512 ∧
      (∀ k, k < 512 → t.peekInactive k = s.peekInactive k) ∧
      t = { s with mem := t.mem, rxq := [], irqSuppress := false }

/-! ## Transmit pump -/

/-- Each transmission-complete in output mode emits exactly one more byte: the start code after the
break, the slots in order, the break after the last slot; outside output mode it has no effect
(R161, R163, R297; D6, D37). -/
def Obligations.PumpSendsOneMoreByte : Prop :=
  ∀ s : State,
    (s.mode = .output → s.fsm = .brk → exec .txdone s = .next { s with
      out := s.out ++ [.cfg .data, .wr 0x00], lineTiming := .data, fsm := .dmxTx }) ∧
    (s.mode = .output → s.fsm = .dmxTx → s.idx < 512 → exec .txdone s = .next { s with
      out := s.out ++ [.wr (s.mem.read (s.actAddr s.idx))], idx := s.idx + 1 }) ∧
    (s.mode = .output → s.fsm = .dmxTx → s.idx = 512 → exec .txdone s = .next { s with
      out := s.out ++ [.cfg .brk, .wr 0x00], lineTiming := .brk, idx := 0, fsm := .brk }) ∧
    (s.mode ≠ .output → exec .txdone s = .next s)

/-- One pump cycle: 514 transmission-completes from a break send the start code at data timing, the
512 bytes of the active buffer in order, and the next break, and lead back to the same state (R162,
inferred). -/
def Obligations.PumpCycleSendsTheWholeBuffer : Prop :=
  ∀ s : State, s.mode = .output → s.fsm = .brk → s.idx = 0 →
    execAll (List.replicate 514 .txdone) s = .next { s with
      out := s.out ++ ([.cfg .data, .wr 0x00] ++ (s.peekBytes 0 512).map .wr ++
        [.cfg .brk, .wr 0x00])
      lineTiming := .brk }

/-! ## Response builder -/

/-- What the Response Builder leaves and sends, whole: the message laid out field by field in the
active buffer and on the wire after the wait of the response timer, and nothing else changed (R250
to R258; the message layout is D12, the 8-bit sums are D31, the transmit sequence D23). -/
def Obligations.ResponseBuilderSendsTheMessage : Prop :=
  (∀ (s : State) (data : List Byte), data.length ≤ 231 →
    Responded s (ackWith data s) s.cfg.proto.rtAck data) ∧
  ∀ (s : State) (reason : Word16), Nacked s (raiseNack reason s) reason

/-- R252 and R96: step 2 writes the ACK type, or the NACK type, data length 2 and the big-endian
reason, and no other byte; the finished message has them, and a NACK the length 26, whatever data
the request had. -/
def Obligations.ResponseTypeAndNackPayload : Prop :=
  (∀ (s : State) (a : Nat), (setResponseType .ack s).mem.read a =
    if a = s.actAddr 15 then s.cfg.proto.rtAck else s.mem.read a) ∧
  (∀ (s : State) (reason : Word16) (a : Nat), (setResponseType (.nack reason) s).mem.read a =
    if a = s.actAddr 15 then s.cfg.proto.rtNack
    else if a = s.actAddr 22 then 2
    else if a = s.actAddr 23 then hi8 reason
    else if a = s.actAddr 24 then lo8 reason
    else s.mem.read a) ∧
  (∀ s : State, s.pdl.toNat ≤ 231 → (respondAck s).peek 15 = s.cfg.proto.rtAck) ∧
  ∀ (s : State) (reason : Word16),
    (raiseNack reason s).peek 15 = s.cfg.proto.rtNack ∧
    (raiseNack reason s).peek 22 = 2 ∧
    (raiseNack reason s).peek 23 = hi8 reason ∧ (raiseNack reason s).peek 24 = lo8 reason ∧
    (raiseNack reason s).peek 1 = 26

/-- R254: step 4 copies the request's source to the destination, read before it is overwritten, and
writes the device's own id as source, whoever the request was addressed to, and no other byte; the
finished message has both. -/
def Obligations.ResponseSwapsAddressing : Prop :=
  (∀ (s : State) (a : Nat), (swapAddresses s).mem.read a =
    if s.actAddr 2 ≤ a ∧ a < s.actAddr 8 then s.mem.read (a + 6)
    else if s.actAddr 8 ≤ a ∧ a < s.actAddr 14 then idByte s.cfg.uid (a - s.actAddr 8)
    else s.mem.read a) ∧
  ∀ (s : State) (kind : ReplyKind) (k : Nat), kind ≠ .ack ∨ s.pdl.toNat ≤ 231 → k < 6 →
    (build kind s).peek (2 + k) = s.peek (8 + k) ∧
    (build kind s).peek (8 + k) = idByte s.cfg.uid k

/-- R256: the two bytes after a response's message are the big-endian sum of the start code and of
the message bytes its length counts, after steps 2 to 5; the sum never exceeds 64974, so the modulo
never acts. -/
def Obligations.ChecksumIsTheAdditiveSum : Prop :=
  ∀ (s : State) (kind : ReplyKind), kind ≠ .ack ∨ s.pdl.toNat ≤ 231 →
    let t := build kind s
    let len := (t.peek 1).toNat
    let sum := 0xCC + ((t.peekBytes 0 (len - 1)).map BitVec.toNat).sum
    24 ≤ len ∧ len ≤ 255 ∧ sum ≤ 64974 ∧
    t.peek (len - 1) = hi8 (BitVec.ofNat 16 (sum % 65536)) ∧
    t.peek len = lo8 (BitVec.ofNat 16 (sum % 65536))

/-- The response timer: the time since dispatch began, also across a wrap of the counter, is filled
up to 176 units by one wait before the direction turns, and there is no wait once 176 have passed
(R251, R349; D11). -/
def Obligations.ResponseNeverLeavesBeforeTheGap : Prop :=
  ∀ (s : State) (kind : ReplyKind), s.t0 < 2 ^ s.cfg.timeW → s.now < 2 ^ s.cfg.timeW →
    s.elapsed = (if s.t0 ≤ s.now then s.now - s.t0 else s.now + 2 ^ s.cfg.timeW - s.t0) ∧
    ∃ rest,
      (s.elapsed < 176 ∧
        (build kind s).out = s.out ++ [.wait (176 - s.elapsed), .dir .tx] ++ rest) ∨
      (176 ≤ s.elapsed ∧ (build kind s).out = s.out ++ [.dir .tx] ++ rest)

/-! ## GET and SET handlers -/

/-- GET identify, label and start address answer with the register's value (R196, R198, R200; D15,
D24, D29). -/
def Obligations.GetRegistersAnswer : Prop :=
  ∀ s : State, s.sizesOk = true → s.pdl = 0 → s.subDevice = 0 →
    (∃ t, exec .getIdentifyDevice s = .next t ∧
      Responded s t s.cfg.proto.rtAck [if s.identify then 1 else 0]) ∧
    (∃ t, exec .getDeviceLabel s = .next t ∧ Responded s t s.cfg.proto.rtAck s.label) ∧
    (s.cfg.collab.isSome = true → ∃ t, exec .getDmxStartAddress s = .next t ∧
      Responded s t s.cfg.proto.rtAck [hi8 s.startAddr, lo8 s.startAddr]) ∧
    (s.cfg.collab = none → ∃ t, exec .getDmxStartAddress s = .next t ∧
      Responded s t s.cfg.proto.rtAck [0, 0])

/-- GET supported parameters answers with the base ids and then the configuration's ids, each
big-endian (R103, R202; D15, D27). -/
def Obligations.GetSupportedParametersAnswers : Prop :=
  ∀ s : State, s.sizesOk = true → s.pdl = 0 → s.subDevice = 0 →
    let base := [s.cfg.basePids.1, s.cfg.basePids.2.1, s.cfg.basePids.2.2]
    (∀ c, s.cfg.collab = some c → ∃ t, exec .getSupportedParameters s = .next t ∧
      Responded s t s.cfg.proto.rtAck
        ((base ++ c.extraPids).flatMap fun pid => [hi8 pid, lo8 pid])) ∧
    (s.cfg.collab = none → ∃ t, exec .getSupportedParameters s = .next t ∧
      Responded s t s.cfg.proto.rtAck (base.flatMap fun pid => [hi8 pid, lo8 pid]))

/-- GET device info answers with the 19 bytes of R104, zeros for what a configuration would supply
(R204; the layout is general knowledge, D26 and log 17). -/
def Obligations.GetDeviceInfoAnswers : Prop :=
  ∀ s : State, s.sizesOk = true → s.pdl = 0 → s.subDevice = 0 →
    let info (model footprint start : Word16) : List Byte :=
      [1, 0, hi8 model, lo8 model, hi8 s.cfg.productCategory, lo8 s.cfg.productCategory] ++
        bytesOfNat 4 s.cfg.swVersionId.toNat ++
        [hi8 footprint, lo8 footprint, 1, 1, hi8 start, lo8 start, 0, 0, 0]
    (∀ c, s.cfg.collab = some c → ∃ t, exec .getDeviceInfo s = .next t ∧
      Responded s t s.cfg.proto.rtAck (info c.modelId c.footprint s.startAddr)) ∧
    (s.cfg.collab = none → ∃ t, exec .getDeviceInfo s = .next t ∧
      Responded s t s.cfg.proto.rtAck (info 0 0 0))

/-- The three configuration strings are answered as supplied, empty without a configuration (R205
to R207; D15, D38). -/
def Obligations.GetStringsAnswer : Prop :=
  ∀ s : State, s.sizesOk = true → s.pdl = 0 → s.subDevice = 0 →
    (∀ c, s.cfg.collab = some c →
      (∃ t, exec .getManufacturerLabel s = .next t ∧
        Responded s t s.cfg.proto.rtAck c.mfrLabel) ∧
      (∃ t, exec .getDeviceModelDescription s = .next t ∧
        Responded s t s.cfg.proto.rtAck c.modelDesc) ∧
      (∃ t, exec .getSoftwareVersionLabel s = .next t ∧
        Responded s t s.cfg.proto.rtAck c.swLabel)) ∧
    (s.cfg.collab = none →
      (∃ t, exec .getManufacturerLabel s = .next t ∧ Responded s t s.cfg.proto.rtAck []) ∧
      (∃ t, exec .getDeviceModelDescription s = .next t ∧
        Responded s t s.cfg.proto.rtAck []) ∧
      (∃ t, exec .getSoftwareVersionLabel s = .next t ∧ Responded s t s.cfg.proto.rtAck []))

/-- SET identify with 0 or 1 writes the flag, raises "RDM changed" and acknowledges without data
(R197, R209; D15, D18). -/
def Obligations.SetIdentifyWritesTheFlag : Prop :=
  ∀ s : State, s.sizesOk = true → s.pdl = 1 → s.subDevice = 0 →
    ∀ v : Bool, s.peek 23 = (if v then 1 else 0) →
      ∃ t, exec .setIdentifyDevice s = .next t ∧
        Responded { s with identify := v, rdmChangedFlag := true } t s.cfg.proto.rtAck []

/-- SET device label takes the request's data bytes as they stand in the buffer, raises "RDM
changed" and acknowledges without data (R199, R209; D15, D18, D29). -/
def Obligations.SetLabelTakesTheBytes : Prop :=
  ∀ s : State, s.sizesOk = true → s.pdl.toNat ≤ s.cfg.labelCap → s.subDevice = 0 →
    ∃ t, exec .setDeviceLabel s = .next t ∧
      Responded { s with label := s.peekBytes 23 s.pdl.toNat, rdmChangedFlag := true } t
        s.cfg.proto.rtAck []

/-- SET start address with a value in 1..512 and a configuration attached writes the register,
raises "RDM changed" and acknowledges without data (R201, R209; D15, D18, D24). -/
def Obligations.SetStartAddressWritesTheRegister : Prop :=
  ∀ s : State, s.sizesOk = true → s.pdl = 2 → s.subDevice = 0 → s.cfg.collab.isSome = true →
    1 ≤ (s.peek16 23).toNat → (s.peek16 23).toNat ≤ 512 →
      ∃ t, exec .setDmxStartAddress s = .next t ∧
        Responded { s with startAddr := s.peek16 23, rdmChangedFlag := true } t
          s.cfg.proto.rtAck []

/-- Where a handler that validates turns a request away: the data length is not one it accepts, or
the sub-device is not 0; when both fail, the priority decides. Nothing but the response changes
(R180, R293; D16, D17). -/
def Obligations.ValidationNacks : Prop :=
  ∀ (s : State) (i : Instr) (ok : Byte → Bool), acceptedPdl s.cfg i = some ok →
    s.sizesOk = true →
    (ok s.pdl = false → s.subDevice = 0 ∨ s.cfg.nackPriority = .formatFirst →
      ∃ t, exec i s = .next t ∧ Nacked s t s.cfg.proto.nrFormatError) ∧
    (s.subDevice ≠ 0 → ok s.pdl = true ∨ s.cfg.nackPriority = .subdevFirst →
      ∃ t, exec i s = .next t ∧ Nacked s t s.cfg.proto.nrSubDeviceOutOfRange)

/-- Where a SET of a legal length turns a value away: identify above 1, a start address of 0 or
above 512, with and without a configuration, and a legal start address without one (R197, R201;
D15, D16, D24). -/
def Obligations.ValueNacks : Prop :=
  ∀ s : State, s.sizesOk = true → s.subDevice = 0 →
    (s.pdl = 1 → 2 ≤ (s.peek 23).toNat →
      ∃ t, exec .setIdentifyDevice s = .next t ∧ Nacked s t s.cfg.proto.nrDataOutOfRange) ∧
    (s.pdl = 2 → (s.peek16 23).toNat = 0 ∨ 513 ≤ (s.peek16 23).toNat →
      ∃ t, exec .setDmxStartAddress s = .next t ∧ Nacked s t s.cfg.proto.nrDataOutOfRange) ∧
    (s.pdl = 2 → 1 ≤ (s.peek16 23).toNat → (s.peek16 23).toNat ≤ 512 → s.cfg.collab = none →
      ∃ t, exec .setDmxStartAddress s = .next t ∧ Nacked s t s.cfg.proto.nrHardwareFault)

/-- SET supported parameters always answers NACK "unsupported command class", before any other
check (R203; D17). -/
def Obligations.SetSupportedParametersAlwaysNacks : Prop :=
  ∀ s : State, s.sizesOk = true →
    ∃ t, exec .setSupportedParameters s = .next t ∧
      Nacked s t s.cfg.proto.nrUnsupportedCommandClass

/-- A key with no table entry is answered NACK "unknown parameter ID" (R108, R176), and the keys
without an entry are those that differ from all fifteen of R107 (inferred; D19). -/
def Obligations.UnknownParameterNacks : Prop :=
  (∀ (s : State) (cc : Byte) (pid : Word16), s.sizesOk = true →
    ∃ t, exec (.rdmNomatch cc pid) s = .next t ∧ Nacked s t s.cfg.proto.nrUnknownPid) ∧
  ∀ (p : Params) (cc : Byte) (pid : Word16),
    decodeRdmKey p cc pid = .rdmNomatch cc pid ↔ (cc, pid) ∉ p.rdmKeys

/-- Without the bounds the spec requires of parameters and label, the RDM commands and the break
that would dispatch one are refused by name (U6, U16; log 12). -/
def Obligations.ParametersOutOfBoundsAreRefused : Prop :=
  (∀ (s : State) (i : Instr), i.space = .rdmMsg → s.sizesOk = false →
    exec i s = .refused .parameterBounds) ∧
  ∀ (s : State) (tDisp tResp : Nat) (during : List Byte), s.mode = .input → s.fsm = .rdmRecv →
    s.rxq = [] → s.sizesOk = false →
      exec (.brk tDisp tResp during) s = .refused .parameterBounds

/-! ## Discovery -/

/-- A well-formed unique-branch request whose inclusive range holds the device's id is answered,
un- muted, by the 24 bytes of the discovery reply on the raw path, without wait, start code or
other change (R231, R233; D20, D22). -/
def Obligations.UniqueBranchReplies : Prop :=
  ∀ s : State, s.sizesOk = true → s.mute = false → s.peek 1 = 36 → s.peek 22 = 12 →
    (s.peek48 23).toNat ≤ s.cfg.uid.toNat → s.cfg.uid.toNat ≤ (s.peek48 29).toNat →
    ∃ t, exec .discUniqueBranch s = .next t ∧
      t.peekBytes 0 24 = dubReply s.cfg.uid ∧
      (∀ a, a < s.actAddr 0 ∨ s.actAddr 24 ≤ a → t.mem.read a = s.mem.read a) ∧
      t = { s with
        mem := t.mem
        out := s.out ++ ([.dir .tx, .cfg .discBrk, .wr 0x00, .flush, .cfg .data] ++
          (dubReply s.cfg.uid).map .wr ++ [.flush, .dir .rx])
        lineTiming := .data
        lineDir := .rx }

/-- A unique-branch request that finds the device muted, is malformed or excludes the device's id
has no effect at all (R231; D20). -/
def Obligations.UniqueBranchIsSilent : Prop :=
  ∀ s : State, s.sizesOk = true →
    s.mute = true ∨ s.peek 1 ≠ 36 ∨ s.peek 22 ≠ 12 ∨ s.cfg.uid.toNat < (s.peek48 23).toNat ∨
      (s.peek48 29).toNat < s.cfg.uid.toNat →
    exec .discUniqueBranch s = .next s

/-- Mute and unmute addressed to this device without payload write the flag and acknowledge with a
zero control field; anything else has no effect (R99, R234, R235; D21). -/
def Obligations.MuteAndUnmute : Prop :=
  ∀ s : State, s.sizesOk = true →
    (s.peek48 2 = s.cfg.uid → s.pdl = 0 →
      (∃ t, exec .discMute s = .next t ∧
        Responded { s with mute := true } t s.cfg.proto.rtAck [0, 0]) ∧
      (∃ t, exec .discUnMute s = .next t ∧
        Responded { s with mute := false } t s.cfg.proto.rtAck [0, 0])) ∧
    (s.peek48 2 ≠ s.cfg.uid ∨ s.pdl ≠ 0 →
      exec .discMute s = .next s ∧ exec .discUnMute s = .next s)

/-- R232: the discovery reply is 24 bytes, seven 0xFE and one 0xAA, then each id byte and each byte
of the 16-bit sum of 6 * 0xFF and the id bytes twice, OR 0xAA and OR 0x55. -/
def Obligations.DiscoveryReplyLayout : Prop :=
  ∀ u : Id48,
    let c : Word16 := BitVec.ofNat 16 ((6 * 0xFF + ((idBytes u).map BitVec.toNat).sum) % 65536)
    (dubReply u).length = 24 ∧
    (dubReply u).take 8 = [0xFE, 0xFE, 0xFE, 0xFE, 0xFE, 0xFE, 0xFE, 0xAA] ∧
    (∀ k, k < 6 → (dubReply u)[8 + 2 * k]? = some (idByte u k ||| 0xAA) ∧
      (dubReply u)[9 + 2 * k]? = some (idByte u k ||| 0x55)) ∧
    (dubReply u).drop 20 = [hi8 c ||| 0xAA, hi8 c ||| 0x55, lo8 c ||| 0xAA, lo8 c ||| 0x55]

/-- The law of the reply encoding: its checksum is the 16-bit sum of the twelve masked id bytes,
and a receiver recovers each id byte and the checksum by AND (R236, inferred from R232). -/
def Obligations.DiscoveryReplyRoundTrip : Prop :=
  ∀ u : Id48,
    (∀ k, k < 6 →
      (dubReply u).getD (8 + 2 * k) 0 &&& (dubReply u).getD (9 + 2 * k) 0 = idByte u k) ∧
    be16 ((dubReply u).getD 20 0 &&& (dubReply u).getD 21 0)
      ((dubReply u).getD 22 0 &&& (dubReply u).getD 23 0) =
      BitVec.ofNat 16 ((((dubReply u).drop 8).take 12).map BitVec.toNat).sum

/-! ## Application interface and reset -/

/-- `setMode` re-arms the pump or the receiver and puts its actions on the line; everything else
keeps its value, and no byte of memory changes (R271; D7). -/
def Obligations.SetModeRearms : Prop :=
  ∀ s : State,
    exec (.setMode .off) s = .next { s with
      mode := .off, idx := 0, fsm := .idle, out := s.out ++ [.stop] } ∧
    exec (.setMode .input) s = .next { s with
      mode := .input, idx := 0, fsm := .idle, out := s.out ++ [.cfg .data, .dir .rx]
      lineTiming := .data, lineDir := .rx } ∧
    exec (.setMode .output) s = .next { s with
      mode := .output, idx := 0, fsm := .brk, out := s.out ++ [.dir .tx, .cfg .brk, .wr 0x00]
      lineTiming := .brk, lineDir := .tx }

/-- `setChannel` writes one byte of the active buffer in any mode; an address of 512 or above is
ignored (R272; D8). -/
def Obligations.SetChannelWritesOneSlot : Prop :=
  ∀ (s : State) (a : Word16) (v : Byte),
    (a.toNat < 512 → ∃ t, exec (.setChannel a v) s = .next t ∧ t.peek a.toNat = v ∧
      (∀ b, b ≠ s.actAddr a.toNat → t.mem.read b = s.mem.read b) ∧ t = { s with mem := t.mem }) ∧
    (512 ≤ a.toNat → exec (.setChannel a v) s = .next s)

/-- `setChannels` writes all 512 bytes of the active buffer: the values from the start offset on,
zero before and after, nothing past offset 511; a count that is not the length of the bytes is
refused (R273, U9; D8). -/
def Obligations.SetChannelsFillsTheBuffer : Prop :=
  ∀ (s : State) (start n : Word16) (vs : List Byte),
    (n.toNat = vs.length → ∃ t, exec (.setChannels start n vs) s = .next t ∧
      (∀ k, k < 512 → t.peek k =
        if start.toNat ≤ k ∧ k < start.toNat + vs.length then vs.getD (k - start.toNat) 0
        else 0) ∧
      (∀ a, a < s.actAddr 0 ∨ s.actAddr 512 ≤ a → t.mem.read a = s.mem.read a) ∧
      t = { s with mem := t.mem }) ∧
    (n.toNat ≠ vs.length → exec (.setChannels start n vs) s = .refused .channelCount)

/-- `getBuffer()` returns the 512 bytes of the inactive buffer, `getLabel()` all label bytes;
neither changes anything else (R274, R278; D29, D33). -/
def Obligations.GetBufferAndGetLabelReturnCopies : Prop :=
  ∀ s : State,
    (∃ bs, exec .getBuffer s = .next { s with returned := s.returned ++ [.bytes bs] } ∧
      bs.length = 512 ∧ ∀ k, k < 512 → bs.getD k 0 = s.peekInactive k) ∧
    exec .getLabel s = .next { s with returned := s.returned ++ [.bytes s.label] }

/-- `newFrame()` and `rdmChanged()` return their flag and clear it; a second call returns false
(R275, R276; D33). -/
def Obligations.FlagReadsTestAndClear : Prop :=
  ∀ s : State,
    exec .newFrame s = .next { s with
      newFrameFlag := false, returned := s.returned ++ [.bool s.newFrameFlag] } ∧
    exec .rdmChanged s = .next { s with
      rdmChangedFlag := false, returned := s.returned ++ [.bool s.rdmChangedFlag] } ∧
    execAll [.newFrame, .newFrame] s = .next { s with
      newFrameFlag := false
      returned := s.returned ++ [.bool s.newFrameFlag, .bool false] } ∧
    execAll [.rdmChanged, .rdmChanged] s = .next { s with
      rdmChangedFlag := false
      returned := s.returned ++ [.bool s.rdmChangedFlag, .bool false] }

/-- `isIdentify()` returns the identify flag and has no side effect (R277). Its selector is 0xA
(R111, D2), alone in one byte (log 2). -/
def Obligations.IsIdentifyReturnsTheFlag : Prop :=
  ∀ s : State,
    decodePacket s.cfg [0xA] = .ok .isIdentify ∧
    exec .isIdentify s = .next { s with returned := s.returned ++ [.bool s.identify] }

/-- `RESET` gives every register its value of R49, empties the receive queue, emits nothing, and
keeps parameters and memory (R320, R49; D25; a `RESET` after the first event is log 11). -/
def Obligations.ResetRestoresTheDefaults : Prop :=
  ∀ s : State, ∃ t, exec .reset s = .next t ∧
    t.act = 0 ∧ t.fsm = .idle ∧ t.idx = 0 ∧ t.mode = .off ∧ t.frameCount = 0 ∧
    t.newFrameFlag = false ∧ t.rdmChangedFlag = false ∧ t.mute = false ∧ t.identify = false ∧
    t.label = s.cfg.labelInit ∧
    (∀ c, s.cfg.collab = some c → t.startAddr = c.startAddrInit) ∧
    (s.cfg.collab = none → t.startAddr = 0) ∧
    t.irqSuppress = false ∧ t.rxq = [] ∧ t.out = s.out ∧ t.returned = s.returned ∧
    t.inbox = s.inbox ∧ t.cfg = s.cfg ∧ t.mem = s.mem

/-! ## Whole-machine rules -/

/-- The invariants of R39 (inferred), the canonical form of the memory and the register ranges are
kept by every step, from every state that has them. -/
def Obligations.StepKeepsTheInvariants : Prop :=
  ∀ s t : State, s.Inv → step s = .next t → t.Inv

/-- The state after reset has the invariants, for every device whose parameters obey the spec's
bounds and for every 1024 bytes the memory may come up with. -/
def Obligations.ResetHasTheInvariants : Prop :=
  State.reset.Inv ∧
  ∀ (p : Params) (draw : List Byte) (draws : Nat), p.wf = true → draw.length = 1024 →
    (State.resetWith p (Memory.ofDraw draw) draws).Inv

/-- From a state with the invariants no step faults: "nothing is fatal" (R290), and a buffer offset
outside 0..511 never occurs (R71, inferred; log 13). The only refusal is of bytes that name no
event, which is the model's choice (log 19; U7, U8). -/
def Obligations.StepNeverStopsOnAnEvent : Prop :=
  ∀ s : State, s.Inv →
    (∃ t, step s = .next t) ∨
    ∃ bytes later e, s.inbox = .event bytes :: later ∧ decodePacket s.cfg bytes = .error e ∧
      step s = .refused (.undecodable e)

/-- No operation writes the identity constants, the handler table's numbers or the configuration
(R34, R322; D24). -/
def Obligations.ParametersAreNeverWritten : Prop :=
  ∀ (i : Instr) (s t : State), exec i s = .next t → t.cfg = s.cfg

/-- The buffer the application reads is never the one an operation writes: as long as the roles
stay, no operation changes a byte of the inactive buffer (R61, R72, R73). -/
def Obligations.InactiveBufferIsNeverWritten : Prop :=
  ∀ (i : Instr) (s t : State), s.Inv → exec i s = .next t → t.act = s.act →
    ∀ k, k < 512 → t.peekInactive k = s.peekInactive k

/-- The roles swap and the frame counter counts only at a break in input mode after whose drain a
DMX frame is in progress or complete, together, and then the flag is raised (R27, R63, R308;
D10). -/
def Obligations.OnlyBreaksPublish : Prop :=
  ∀ (i : Instr) (s t : State), exec i s = .next t → i ≠ .reset →
    (t.act = s.act ∧ t.frameCount = s.frameCount ∧
      (t.newFrameFlag = true → s.newFrameFlag = true)) ∨
    (s.mode = .input ∧ (∃ tDisp tResp during, i = .brk tDisp tResp during) ∧
      (∃ u, execAll (s.rxq.map .rxbyte) s = .next u ∧
        (u.fsm = .dmxRecv ∨ u.fsm = .dmxComplete)) ∧
      t.act = 1 - s.act ∧ t.frameCount = (s.frameCount + 1) % 2 ^ s.cfg.fcW ∧
      t.newFrameFlag = true)

/-- "RDM changed" is raised exactly by a SET of identify, label or start address on its ACK path:
run alone, or by the break in input mode after whose drain an accepted RDM message stands in the
buffer whose key decodes to that SET (R209; D18; a command run alone is log 14). -/
def Obligations.OnlySetsRaiseRdmChanged : Prop :=
  ∀ (i : Instr) (s t : State), exec i s = .next t → s.rdmChangedFlag = false →
    (t.rdmChangedFlag = true ↔
      acceptsSet s i = true ∨
      s.mode = .input ∧ (∃ tDisp tResp during, i = .brk tDisp tResp during) ∧
        ∃ u, execAll (s.rxq.map .rxbyte) s = .next u ∧ u.fsm = .rdmRecv ∧ u.accepted = true ∧
          acceptsSet u (decodeRdmKey u.cfg u.commandClass u.paramId) = true)

/-- The device mode is entered and left by `setMode` and `RESET` alone, and in mode off nothing is
emitted but by `setMode` and by an RDM command run on its own (R25, R306, R314; D6, D39, log
14). -/
def Obligations.OnlySetModeChangesTheMode : Prop :=
  ∀ (i : Instr) (s t : State), exec i s = .next t →
    (t.mode ≠ s.mode → i = .reset ∨ ∃ m, i = .setMode m) ∧
    (s.mode = .off → t.out ≠ s.out → i.space = .rdmMsg ∨ ∃ m, i = .setMode m)

/-- What R49 leaves unspecified at reset is never observed: an event answers the same whatever
`t0`, `now`, the line timing and the line direction hold, but for those registers themselves (R26,
R44, U2, U3; log 8). -/
def Obligations.UnspecifiedRegistersAreNeverObserved : Prop :=
  ∀ (i : Instr) (s : State) (t0 now : Nat) (timing : Timing) (dir : Dir), i.space = .event →
    blotted (exec i (withUnspecified t0 now timing dir s)) = blotted (exec i s)
end

