-- ==== Sys2Proof/Laws/Bytes.lean ====
section
/-! SUPPORT. Laws of the byte-order helpers (R13, R65): each of them loses nothing. -/

namespace Sys2Proof

@[simp] theorem be16_hi8_lo8 (v : Word16) : be16 (hi8 v) (lo8 v) = v := by
  unfold be16 hi8 lo8
  apply BitVec.eq_of_getLsbD_eq
  intro i hi
  erw [BitVec.getLsbD_append]
  simp
  split
  · simp [*]
  · rw [show 8 + (i - 8) = i by omega]
    simp
    intro
    omega

@[simp] theorem hi8_be16 (h l : Byte) : hi8 (be16 h l) = h := by
  unfold be16 hi8
  apply BitVec.eq_of_getLsbD_eq
  intro i hi
  simp
  erw [BitVec.getLsbD_append]
  simp [hi]

@[simp] theorem lo8_be16 (h l : Byte) : lo8 (be16 h l) = l := by
  unfold be16 lo8
  apply BitVec.eq_of_getLsbD_eq
  intro i hi
  simp
  erw [BitVec.getLsbD_append]
  simp [hi]

/-- `be16(h, l) = h * 256 + l` (R13). -/
theorem be16_toNat (h l : Byte) : (be16 h l).toNat = h.toNat * 256 + l.toNat := by
  have := l.isLt
  unfold be16
  erw [BitVec.toNat_append]
  rw [← Nat.shiftLeft_add_eq_or_of_lt (by omega), Nat.shiftLeft_eq]

@[simp] theorem idBytes_length (u : Id48) : (idBytes u).length = 6 := rfl

@[simp] theorem bytesOfNat_length (n v : Nat) : (bytesOfNat n v).length = n := by
  induction n <;> simp_all [bytesOfNat]

theorem natOfBytes_lt (bs : List Byte) : natOfBytes bs < 256 ^ bs.length := by
  induction bs with
  | nil => simp [natOfBytes]
  | cons b bs ih =>
    have := b.isLt
    simp only [natOfBytes, List.length_cons, Nat.pow_succ]
    nlinarith

/-- A number that fits `n` bytes is read back from them. -/
theorem natOfBytes_bytesOfNat (n v : Nat) : natOfBytes (bytesOfNat n v) = v % 256 ^ n := by
  induction n with
  | zero => simp [bytesOfNat, natOfBytes, Nat.mod_one]
  | succ n ih =>
    simp only [bytesOfNat, natOfBytes, bytesOfNat_length, ih, BitVec.toNat_ofNat]
    have h := Nat.mod_mul (x := v) (a := 256 ^ n) (b := 256)
    rw [show 256 ^ (n + 1) = 256 ^ n * 256 from Nat.pow_succ _ _, h, Nat.add_comm, Nat.mul_comm]

/-- Bytes are read back from the number they make. -/
theorem bytesOfNat_natOfBytes (bs : List Byte) : bytesOfNat bs.length (natOfBytes bs) = bs := by
  have key : ∀ (bs : List Byte) (k : Nat),
      bytesOfNat bs.length (k * 256 ^ bs.length + natOfBytes bs) = bs := by
    intro bs
    induction bs with
    | nil => intro k; rfl
    | cons b bs ih =>
      intro k
      have hlt := natOfBytes_lt bs
      have hb := b.isLt
      simp only [List.length_cons, bytesOfNat, natOfBytes]
      have e : k * 256 ^ (bs.length + 1) + (b.toNat * 256 ^ bs.length + natOfBytes bs) =
          (k * 256 + b.toNat) * 256 ^ bs.length + natOfBytes bs := by
        rw [Nat.pow_succ]; ring
      rw [e, ih]
      congr 1
      rw [Nat.mul_comm, Nat.mul_add_div (by positivity), Nat.div_eq_of_lt hlt]
      apply BitVec.eq_of_toNat_eq
      simp
      omega
  simpa using key bs 0

end Sys2Proof
end

