-- ==== Sys2Proof/Laws/State.lean ====
section
/-! SUPPORT. One lemma per field for each named update of the state, so that no proof unfolds a
record update, and where each update leaves the addresses of the two buffers. -/

namespace Sys2Proof.Machine


/-! ### State.poke -/

@[simp] theorem State.poke_mem (s : State) (k : Nat) (v : Byte) : (s.poke k v).mem = s.mem.write (s.actAddr k) v := rfl
@[simp] theorem State.poke_act (s : State) (k : Nat) (v : Byte) : (s.poke k v).act = s.act := rfl
@[simp] theorem State.poke_fsm (s : State) (k : Nat) (v : Byte) : (s.poke k v).fsm = s.fsm := rfl
@[simp] theorem State.poke_idx (s : State) (k : Nat) (v : Byte) : (s.poke k v).idx = s.idx := rfl
@[simp] theorem State.poke_mode (s : State) (k : Nat) (v : Byte) : (s.poke k v).mode = s.mode := rfl
@[simp] theorem State.poke_frameCount (s : State) (k : Nat) (v : Byte) : (s.poke k v).frameCount = s.frameCount := rfl
@[simp] theorem State.poke_newFrameFlag (s : State) (k : Nat) (v : Byte) : (s.poke k v).newFrameFlag = s.newFrameFlag := rfl
@[simp] theorem State.poke_rdmChangedFlag (s : State) (k : Nat) (v : Byte) : (s.poke k v).rdmChangedFlag = s.rdmChangedFlag := rfl
@[simp] theorem State.poke_mute (s : State) (k : Nat) (v : Byte) : (s.poke k v).mute = s.mute := rfl
@[simp] theorem State.poke_identify (s : State) (k : Nat) (v : Byte) : (s.poke k v).identify = s.identify := rfl
@[simp] theorem State.poke_label (s : State) (k : Nat) (v : Byte) : (s.poke k v).label = s.label := rfl
@[simp] theorem State.poke_startAddr (s : State) (k : Nat) (v : Byte) : (s.poke k v).startAddr = s.startAddr := rfl
@[simp] theorem State.poke_t0 (s : State) (k : Nat) (v : Byte) : (s.poke k v).t0 = s.t0 := rfl
@[simp] theorem State.poke_irqSuppress (s : State) (k : Nat) (v : Byte) : (s.poke k v).irqSuppress = s.irqSuppress := rfl
@[simp] theorem State.poke_rxq (s : State) (k : Nat) (v : Byte) : (s.poke k v).rxq = s.rxq := rfl
@[simp] theorem State.poke_lineTiming (s : State) (k : Nat) (v : Byte) : (s.poke k v).lineTiming = s.lineTiming := rfl
@[simp] theorem State.poke_lineDir (s : State) (k : Nat) (v : Byte) : (s.poke k v).lineDir = s.lineDir := rfl
@[simp] theorem State.poke_now (s : State) (k : Nat) (v : Byte) : (s.poke k v).now = s.now := rfl
@[simp] theorem State.poke_cfg (s : State) (k : Nat) (v : Byte) : (s.poke k v).cfg = s.cfg := rfl
@[simp] theorem State.poke_inbox (s : State) (k : Nat) (v : Byte) : (s.poke k v).inbox = s.inbox := rfl
@[simp] theorem State.poke_out (s : State) (k : Nat) (v : Byte) : (s.poke k v).out = s.out := rfl
@[simp] theorem State.poke_returned (s : State) (k : Nat) (v : Byte) : (s.poke k v).returned = s.returned := rfl
@[simp] theorem State.poke_draws (s : State) (k : Nat) (v : Byte) : (s.poke k v).draws = s.draws := rfl
@[simp] theorem State.poke_actAddr (s : State) (k : Nat) (v : Byte) (off : Nat) :
    (s.poke k v).actAddr off = s.actAddr off := rfl
@[simp] theorem State.poke_inactAddr (s : State) (k : Nat) (v : Byte) (off : Nat) :
    (s.poke k v).inactAddr off = s.inactAddr off := rfl

/-! ### State.pokeBytes -/

@[simp] theorem State.pokeBytes_mem (s : State) (k : Nat) (bs : List Byte) : (s.pokeBytes k bs).mem = s.mem.writeBytes (s.actAddr k) bs := rfl
@[simp] theorem State.pokeBytes_act (s : State) (k : Nat) (bs : List Byte) : (s.pokeBytes k bs).act = s.act := rfl
@[simp] theorem State.pokeBytes_fsm (s : State) (k : Nat) (bs : List Byte) : (s.pokeBytes k bs).fsm = s.fsm := rfl
@[simp] theorem State.pokeBytes_idx (s : State) (k : Nat) (bs : List Byte) : (s.pokeBytes k bs).idx = s.idx := rfl
@[simp] theorem State.pokeBytes_mode (s : State) (k : Nat) (bs : List Byte) : (s.pokeBytes k bs).mode = s.mode := rfl
@[simp] theorem State.pokeBytes_frameCount (s : State) (k : Nat) (bs : List Byte) : (s.pokeBytes k bs).frameCount = s.frameCount := rfl
@[simp] theorem State.pokeBytes_newFrameFlag (s : State) (k : Nat) (bs : List Byte) : (s.pokeBytes k bs).newFrameFlag = s.newFrameFlag := rfl
@[simp] theorem State.pokeBytes_rdmChangedFlag (s : State) (k : Nat) (bs : List Byte) : (s.pokeBytes k bs).rdmChangedFlag = s.rdmChangedFlag := rfl
@[simp] theorem State.pokeBytes_mute (s : State) (k : Nat) (bs : List Byte) : (s.pokeBytes k bs).mute = s.mute := rfl
@[simp] theorem State.pokeBytes_identify (s : State) (k : Nat) (bs : List Byte) : (s.pokeBytes k bs).identify = s.identify := rfl
@[simp] theorem State.pokeBytes_label (s : State) (k : Nat) (bs : List Byte) : (s.pokeBytes k bs).label = s.label := rfl
@[simp] theorem State.pokeBytes_startAddr (s : State) (k : Nat) (bs : List Byte) : (s.pokeBytes k bs).startAddr = s.startAddr := rfl
@[simp] theorem State.pokeBytes_t0 (s : State) (k : Nat) (bs : List Byte) : (s.pokeBytes k bs).t0 = s.t0 := rfl
@[simp] theorem State.pokeBytes_irqSuppress (s : State) (k : Nat) (bs : List Byte) : (s.pokeBytes k bs).irqSuppress = s.irqSuppress := rfl
@[simp] theorem State.pokeBytes_rxq (s : State) (k : Nat) (bs : List Byte) : (s.pokeBytes k bs).rxq = s.rxq := rfl
@[simp] theorem State.pokeBytes_lineTiming (s : State) (k : Nat) (bs : List Byte) : (s.pokeBytes k bs).lineTiming = s.lineTiming := rfl
@[simp] theorem State.pokeBytes_lineDir (s : State) (k : Nat) (bs : List Byte) : (s.pokeBytes k bs).lineDir = s.lineDir := rfl
@[simp] theorem State.pokeBytes_now (s : State) (k : Nat) (bs : List Byte) : (s.pokeBytes k bs).now = s.now := rfl
@[simp] theorem State.pokeBytes_cfg (s : State) (k : Nat) (bs : List Byte) : (s.pokeBytes k bs).cfg = s.cfg := rfl
@[simp] theorem State.pokeBytes_inbox (s : State) (k : Nat) (bs : List Byte) : (s.pokeBytes k bs).inbox = s.inbox := rfl
@[simp] theorem State.pokeBytes_out (s : State) (k : Nat) (bs : List Byte) : (s.pokeBytes k bs).out = s.out := rfl
@[simp] theorem State.pokeBytes_returned (s : State) (k : Nat) (bs : List Byte) : (s.pokeBytes k bs).returned = s.returned := rfl
@[simp] theorem State.pokeBytes_draws (s : State) (k : Nat) (bs : List Byte) : (s.pokeBytes k bs).draws = s.draws := rfl
@[simp] theorem State.pokeBytes_actAddr (s : State) (k : Nat) (bs : List Byte) (off : Nat) :
    (s.pokeBytes k bs).actAddr off = s.actAddr off := rfl
@[simp] theorem State.pokeBytes_inactAddr (s : State) (k : Nat) (bs : List Byte) (off : Nat) :
    (s.pokeBytes k bs).inactAddr off = s.inactAddr off := rfl

/-! ### State.poke16 -/

@[simp] theorem State.poke16_mem (s : State) (k : Nat) (v : Word16) : (s.poke16 k v).mem = s.mem.writeBytes (s.actAddr k) [hi8 v, lo8 v] := rfl
@[simp] theorem State.poke16_act (s : State) (k : Nat) (v : Word16) : (s.poke16 k v).act = s.act := rfl
@[simp] theorem State.poke16_fsm (s : State) (k : Nat) (v : Word16) : (s.poke16 k v).fsm = s.fsm := rfl
@[simp] theorem State.poke16_idx (s : State) (k : Nat) (v : Word16) : (s.poke16 k v).idx = s.idx := rfl
@[simp] theorem State.poke16_mode (s : State) (k : Nat) (v : Word16) : (s.poke16 k v).mode = s.mode := rfl
@[simp] theorem State.poke16_frameCount (s : State) (k : Nat) (v : Word16) : (s.poke16 k v).frameCount = s.frameCount := rfl
@[simp] theorem State.poke16_newFrameFlag (s : State) (k : Nat) (v : Word16) : (s.poke16 k v).newFrameFlag = s.newFrameFlag := rfl
@[simp] theorem State.poke16_rdmChangedFlag (s : State) (k : Nat) (v : Word16) : (s.poke16 k v).rdmChangedFlag = s.rdmChangedFlag := rfl
@[simp] theorem State.poke16_mute (s : State) (k : Nat) (v : Word16) : (s.poke16 k v).mute = s.mute := rfl
@[simp] theorem State.poke16_identify (s : State) (k : Nat) (v : Word16) : (s.poke16 k v).identify = s.identify := rfl
@[simp] theorem State.poke16_label (s : State) (k : Nat) (v : Word16) : (s.poke16 k v).label = s.label := rfl
@[simp] theorem State.poke16_startAddr (s : State) (k : Nat) (v : Word16) : (s.poke16 k v).startAddr = s.startAddr := rfl
@[simp] theorem State.poke16_t0 (s : State) (k : Nat) (v : Word16) : (s.poke16 k v).t0 = s.t0 := rfl
@[simp] theorem State.poke16_irqSuppress (s : State) (k : Nat) (v : Word16) : (s.poke16 k v).irqSuppress = s.irqSuppress := rfl
@[simp] theorem State.poke16_rxq (s : State) (k : Nat) (v : Word16) : (s.poke16 k v).rxq = s.rxq := rfl
@[simp] theorem State.poke16_lineTiming (s : State) (k : Nat) (v : Word16) : (s.poke16 k v).lineTiming = s.lineTiming := rfl
@[simp] theorem State.poke16_lineDir (s : State) (k : Nat) (v : Word16) : (s.poke16 k v).lineDir = s.lineDir := rfl
@[simp] theorem State.poke16_now (s : State) (k : Nat) (v : Word16) : (s.poke16 k v).now = s.now := rfl
@[simp] theorem State.poke16_cfg (s : State) (k : Nat) (v : Word16) : (s.poke16 k v).cfg = s.cfg := rfl
@[simp] theorem State.poke16_inbox (s : State) (k : Nat) (v : Word16) : (s.poke16 k v).inbox = s.inbox := rfl
@[simp] theorem State.poke16_out (s : State) (k : Nat) (v : Word16) : (s.poke16 k v).out = s.out := rfl
@[simp] theorem State.poke16_returned (s : State) (k : Nat) (v : Word16) : (s.poke16 k v).returned = s.returned := rfl
@[simp] theorem State.poke16_draws (s : State) (k : Nat) (v : Word16) : (s.poke16 k v).draws = s.draws := rfl
@[simp] theorem State.poke16_actAddr (s : State) (k : Nat) (v : Word16) (off : Nat) :
    (s.poke16 k v).actAddr off = s.actAddr off := rfl
@[simp] theorem State.poke16_inactAddr (s : State) (k : Nat) (v : Word16) (off : Nat) :
    (s.poke16 k v).inactAddr off = s.inactAddr off := rfl

/-! ### State.emit -/

@[simp] theorem State.emit_mem (s : State) (as : List Action) : (s.emit as).mem = s.mem := rfl
@[simp] theorem State.emit_act (s : State) (as : List Action) : (s.emit as).act = s.act := rfl
@[simp] theorem State.emit_fsm (s : State) (as : List Action) : (s.emit as).fsm = s.fsm := rfl
@[simp] theorem State.emit_idx (s : State) (as : List Action) : (s.emit as).idx = s.idx := rfl
@[simp] theorem State.emit_mode (s : State) (as : List Action) : (s.emit as).mode = s.mode := rfl
@[simp] theorem State.emit_frameCount (s : State) (as : List Action) : (s.emit as).frameCount = s.frameCount := rfl
@[simp] theorem State.emit_newFrameFlag (s : State) (as : List Action) : (s.emit as).newFrameFlag = s.newFrameFlag := rfl
@[simp] theorem State.emit_rdmChangedFlag (s : State) (as : List Action) : (s.emit as).rdmChangedFlag = s.rdmChangedFlag := rfl
@[simp] theorem State.emit_mute (s : State) (as : List Action) : (s.emit as).mute = s.mute := rfl
@[simp] theorem State.emit_identify (s : State) (as : List Action) : (s.emit as).identify = s.identify := rfl
@[simp] theorem State.emit_label (s : State) (as : List Action) : (s.emit as).label = s.label := rfl
@[simp] theorem State.emit_startAddr (s : State) (as : List Action) : (s.emit as).startAddr = s.startAddr := rfl
@[simp] theorem State.emit_t0 (s : State) (as : List Action) : (s.emit as).t0 = s.t0 := rfl
@[simp] theorem State.emit_irqSuppress (s : State) (as : List Action) : (s.emit as).irqSuppress = s.irqSuppress := rfl
@[simp] theorem State.emit_rxq (s : State) (as : List Action) : (s.emit as).rxq = s.rxq := rfl
@[simp] theorem State.emit_lineTiming (s : State) (as : List Action) : (s.emit as).lineTiming = timingAfter s.lineTiming as := rfl
@[simp] theorem State.emit_lineDir (s : State) (as : List Action) : (s.emit as).lineDir = dirAfter s.lineDir as := rfl
@[simp] theorem State.emit_now (s : State) (as : List Action) : (s.emit as).now = s.now := rfl
@[simp] theorem State.emit_cfg (s : State) (as : List Action) : (s.emit as).cfg = s.cfg := rfl
@[simp] theorem State.emit_inbox (s : State) (as : List Action) : (s.emit as).inbox = s.inbox := rfl
@[simp] theorem State.emit_out (s : State) (as : List Action) : (s.emit as).out = s.out ++ as := rfl
@[simp] theorem State.emit_returned (s : State) (as : List Action) : (s.emit as).returned = s.returned := rfl
@[simp] theorem State.emit_draws (s : State) (as : List Action) : (s.emit as).draws = s.draws := rfl
@[simp] theorem State.emit_actAddr (s : State) (as : List Action) (off : Nat) :
    (s.emit as).actAddr off = s.actAddr off := rfl
@[simp] theorem State.emit_inactAddr (s : State) (as : List Action) (off : Nat) :
    (s.emit as).inactAddr off = s.inactAddr off := rfl
@[simp] theorem State.emit_peek (s : State) (as : List Action) (j : Nat) : (s.emit as).peek j = s.peek j := rfl
@[simp] theorem State.emit_peekBytes (s : State) (as : List Action) (j n : Nat) :
    (s.emit as).peekBytes j n = s.peekBytes j n := rfl

/-! ### State.answer -/

@[simp] theorem State.answer_mem (s : State) (v : HostValue) : (s.answer v).mem = s.mem := rfl
@[simp] theorem State.answer_act (s : State) (v : HostValue) : (s.answer v).act = s.act := rfl
@[simp] theorem State.answer_fsm (s : State) (v : HostValue) : (s.answer v).fsm = s.fsm := rfl
@[simp] theorem State.answer_idx (s : State) (v : HostValue) : (s.answer v).idx = s.idx := rfl
@[simp] theorem State.answer_mode (s : State) (v : HostValue) : (s.answer v).mode = s.mode := rfl
@[simp] theorem State.answer_frameCount (s : State) (v : HostValue) : (s.answer v).frameCount = s.frameCount := rfl
@[simp] theorem State.answer_newFrameFlag (s : State) (v : HostValue) : (s.answer v).newFrameFlag = s.newFrameFlag := rfl
@[simp] theorem State.answer_rdmChangedFlag (s : State) (v : HostValue) : (s.answer v).rdmChangedFlag = s.rdmChangedFlag := rfl
@[simp] theorem State.answer_mute (s : State) (v : HostValue) : (s.answer v).mute = s.mute := rfl
@[simp] theorem State.answer_identify (s : State) (v : HostValue) : (s.answer v).identify = s.identify := rfl
@[simp] theorem State.answer_label (s : State) (v : HostValue) : (s.answer v).label = s.label := rfl
@[simp] theorem State.answer_startAddr (s : State) (v : HostValue) : (s.answer v).startAddr = s.startAddr := rfl
@[simp] theorem State.answer_t0 (s : State) (v : HostValue) : (s.answer v).t0 = s.t0 := rfl
@[simp] theorem State.answer_irqSuppress (s : State) (v : HostValue) : (s.answer v).irqSuppress = s.irqSuppress := rfl
@[simp] theorem State.answer_rxq (s : State) (v : HostValue) : (s.answer v).rxq = s.rxq := rfl
@[simp] theorem State.answer_lineTiming (s : State) (v : HostValue) : (s.answer v).lineTiming = s.lineTiming := rfl
@[simp] theorem State.answer_lineDir (s : State) (v : HostValue) : (s.answer v).lineDir = s.lineDir := rfl
@[simp] theorem State.answer_now (s : State) (v : HostValue) : (s.answer v).now = s.now := rfl
@[simp] theorem State.answer_cfg (s : State) (v : HostValue) : (s.answer v).cfg = s.cfg := rfl
@[simp] theorem State.answer_inbox (s : State) (v : HostValue) : (s.answer v).inbox = s.inbox := rfl
@[simp] theorem State.answer_out (s : State) (v : HostValue) : (s.answer v).out = s.out := rfl
@[simp] theorem State.answer_returned (s : State) (v : HostValue) : (s.answer v).returned = s.returned ++ [v] := rfl
@[simp] theorem State.answer_draws (s : State) (v : HostValue) : (s.answer v).draws = s.draws := rfl
@[simp] theorem State.answer_actAddr (s : State) (v : HostValue) (off : Nat) :
    (s.answer v).actAddr off = s.actAddr off := rfl
@[simp] theorem State.answer_inactAddr (s : State) (v : HostValue) (off : Nat) :
    (s.answer v).inactAddr off = s.inactAddr off := rfl
@[simp] theorem State.answer_peek (s : State) (v : HostValue) (j : Nat) : (s.answer v).peek j = s.peek j := rfl
@[simp] theorem State.answer_peekBytes (s : State) (v : HostValue) (j n : Nat) :
    (s.answer v).peekBytes j n = s.peekBytes j n := rfl

/-! ### State.swap -/

@[simp] theorem State.swap_mem (s : State) : (s.swap).mem = s.mem := rfl
@[simp] theorem State.swap_act (s : State) : (s.swap).act = 1 - s.act := rfl
@[simp] theorem State.swap_fsm (s : State) : (s.swap).fsm = s.fsm := rfl
@[simp] theorem State.swap_idx (s : State) : (s.swap).idx = s.idx := rfl
@[simp] theorem State.swap_mode (s : State) : (s.swap).mode = s.mode := rfl
@[simp] theorem State.swap_frameCount (s : State) : (s.swap).frameCount = s.frameCount := rfl
@[simp] theorem State.swap_newFrameFlag (s : State) : (s.swap).newFrameFlag = s.newFrameFlag := rfl
@[simp] theorem State.swap_rdmChangedFlag (s : State) : (s.swap).rdmChangedFlag = s.rdmChangedFlag := rfl
@[simp] theorem State.swap_mute (s : State) : (s.swap).mute = s.mute := rfl
@[simp] theorem State.swap_identify (s : State) : (s.swap).identify = s.identify := rfl
@[simp] theorem State.swap_label (s : State) : (s.swap).label = s.label := rfl
@[simp] theorem State.swap_startAddr (s : State) : (s.swap).startAddr = s.startAddr := rfl
@[simp] theorem State.swap_t0 (s : State) : (s.swap).t0 = s.t0 := rfl
@[simp] theorem State.swap_irqSuppress (s : State) : (s.swap).irqSuppress = s.irqSuppress := rfl
@[simp] theorem State.swap_rxq (s : State) : (s.swap).rxq = s.rxq := rfl
@[simp] theorem State.swap_lineTiming (s : State) : (s.swap).lineTiming = s.lineTiming := rfl
@[simp] theorem State.swap_lineDir (s : State) : (s.swap).lineDir = s.lineDir := rfl
@[simp] theorem State.swap_now (s : State) : (s.swap).now = s.now := rfl
@[simp] theorem State.swap_cfg (s : State) : (s.swap).cfg = s.cfg := rfl
@[simp] theorem State.swap_inbox (s : State) : (s.swap).inbox = s.inbox := rfl
@[simp] theorem State.swap_out (s : State) : (s.swap).out = s.out := rfl
@[simp] theorem State.swap_returned (s : State) : (s.swap).returned = s.returned := rfl
@[simp] theorem State.swap_draws (s : State) : (s.swap).draws = s.draws := rfl

/-! ### enterFinalisation -/

@[simp] theorem enterFinalisation_mem (s : State) : (enterFinalisation s).mem = s.mem := rfl
@[simp] theorem enterFinalisation_act (s : State) : (enterFinalisation s).act = s.act := rfl
@[simp] theorem enterFinalisation_fsm (s : State) : (enterFinalisation s).fsm = s.fsm := rfl
@[simp] theorem enterFinalisation_idx (s : State) : (enterFinalisation s).idx = s.idx := rfl
@[simp] theorem enterFinalisation_mode (s : State) : (enterFinalisation s).mode = s.mode := rfl
@[simp] theorem enterFinalisation_frameCount (s : State) : (enterFinalisation s).frameCount = s.frameCount := rfl
@[simp] theorem enterFinalisation_newFrameFlag (s : State) : (enterFinalisation s).newFrameFlag = s.newFrameFlag := rfl
@[simp] theorem enterFinalisation_rdmChangedFlag (s : State) : (enterFinalisation s).rdmChangedFlag = s.rdmChangedFlag := rfl
@[simp] theorem enterFinalisation_mute (s : State) : (enterFinalisation s).mute = s.mute := rfl
@[simp] theorem enterFinalisation_identify (s : State) : (enterFinalisation s).identify = s.identify := rfl
@[simp] theorem enterFinalisation_label (s : State) : (enterFinalisation s).label = s.label := rfl
@[simp] theorem enterFinalisation_startAddr (s : State) : (enterFinalisation s).startAddr = s.startAddr := rfl
@[simp] theorem enterFinalisation_t0 (s : State) : (enterFinalisation s).t0 = s.t0 := rfl
@[simp] theorem enterFinalisation_irqSuppress (s : State) : (enterFinalisation s).irqSuppress = true := rfl
@[simp] theorem enterFinalisation_rxq (s : State) : (enterFinalisation s).rxq = s.rxq := rfl
@[simp] theorem enterFinalisation_lineTiming (s : State) : (enterFinalisation s).lineTiming = s.lineTiming := rfl
@[simp] theorem enterFinalisation_lineDir (s : State) : (enterFinalisation s).lineDir = s.lineDir := rfl
@[simp] theorem enterFinalisation_now (s : State) : (enterFinalisation s).now = s.now := rfl
@[simp] theorem enterFinalisation_cfg (s : State) : (enterFinalisation s).cfg = s.cfg := rfl
@[simp] theorem enterFinalisation_inbox (s : State) : (enterFinalisation s).inbox = s.inbox := rfl
@[simp] theorem enterFinalisation_out (s : State) : (enterFinalisation s).out = s.out := rfl
@[simp] theorem enterFinalisation_returned (s : State) : (enterFinalisation s).returned = s.returned := rfl
@[simp] theorem enterFinalisation_draws (s : State) : (enterFinalisation s).draws = s.draws := rfl
@[simp] theorem enterFinalisation_actAddr (s : State) (off : Nat) :
    (enterFinalisation s).actAddr off = s.actAddr off := rfl
@[simp] theorem enterFinalisation_inactAddr (s : State) (off : Nat) :
    (enterFinalisation s).inactAddr off = s.inactAddr off := rfl
@[simp] theorem enterFinalisation_peek (s : State) (j : Nat) : (enterFinalisation s).peek j = s.peek j := rfl
@[simp] theorem enterFinalisation_peekBytes (s : State) (j n : Nat) :
    (enterFinalisation s).peekBytes j n = s.peekBytes j n := rfl

/-! ### leaveFinalisation -/

@[simp] theorem leaveFinalisation_mem (s : State) : (leaveFinalisation s).mem = s.mem := rfl
@[simp] theorem leaveFinalisation_act (s : State) : (leaveFinalisation s).act = s.act := rfl
@[simp] theorem leaveFinalisation_fsm (s : State) : (leaveFinalisation s).fsm = .brk := rfl
@[simp] theorem leaveFinalisation_idx (s : State) : (leaveFinalisation s).idx = 0 := rfl
@[simp] theorem leaveFinalisation_mode (s : State) : (leaveFinalisation s).mode = s.mode := rfl
@[simp] theorem leaveFinalisation_frameCount (s : State) : (leaveFinalisation s).frameCount = s.frameCount := rfl
@[simp] theorem leaveFinalisation_newFrameFlag (s : State) : (leaveFinalisation s).newFrameFlag = s.newFrameFlag := rfl
@[simp] theorem leaveFinalisation_rdmChangedFlag (s : State) : (leaveFinalisation s).rdmChangedFlag = s.rdmChangedFlag := rfl
@[simp] theorem leaveFinalisation_mute (s : State) : (leaveFinalisation s).mute = s.mute := rfl
@[simp] theorem leaveFinalisation_identify (s : State) : (leaveFinalisation s).identify = s.identify := rfl
@[simp] theorem leaveFinalisation_label (s : State) : (leaveFinalisation s).label = s.label := rfl
@[simp] theorem leaveFinalisation_startAddr (s : State) : (leaveFinalisation s).startAddr = s.startAddr := rfl
@[simp] theorem leaveFinalisation_t0 (s : State) : (leaveFinalisation s).t0 = s.t0 := rfl
@[simp] theorem leaveFinalisation_irqSuppress (s : State) : (leaveFinalisation s).irqSuppress = false := rfl
@[simp] theorem leaveFinalisation_rxq (s : State) : (leaveFinalisation s).rxq = s.rxq := rfl
@[simp] theorem leaveFinalisation_lineTiming (s : State) : (leaveFinalisation s).lineTiming = s.lineTiming := rfl
@[simp] theorem leaveFinalisation_lineDir (s : State) : (leaveFinalisation s).lineDir = s.lineDir := rfl
@[simp] theorem leaveFinalisation_now (s : State) : (leaveFinalisation s).now = s.now := rfl
@[simp] theorem leaveFinalisation_cfg (s : State) : (leaveFinalisation s).cfg = s.cfg := rfl
@[simp] theorem leaveFinalisation_inbox (s : State) : (leaveFinalisation s).inbox = s.inbox := rfl
@[simp] theorem leaveFinalisation_out (s : State) : (leaveFinalisation s).out = s.out := rfl
@[simp] theorem leaveFinalisation_returned (s : State) : (leaveFinalisation s).returned = s.returned := rfl
@[simp] theorem leaveFinalisation_draws (s : State) : (leaveFinalisation s).draws = s.draws := rfl
@[simp] theorem leaveFinalisation_actAddr (s : State) (off : Nat) :
    (leaveFinalisation s).actAddr off = s.actAddr off := rfl
@[simp] theorem leaveFinalisation_inactAddr (s : State) (off : Nat) :
    (leaveFinalisation s).inactAddr off = s.inactAddr off := rfl
@[simp] theorem leaveFinalisation_peek (s : State) (j : Nat) : (leaveFinalisation s).peek j = s.peek j := rfl
@[simp] theorem leaveFinalisation_peekBytes (s : State) (j n : Nat) :
    (leaveFinalisation s).peekBytes j n = s.peekBytes j n := rfl

/-! ### raiseNewFrame -/

@[simp] theorem raiseNewFrame_mem (s : State) : (raiseNewFrame s).mem = s.mem := rfl
@[simp] theorem raiseNewFrame_act (s : State) : (raiseNewFrame s).act = s.act := rfl
@[simp] theorem raiseNewFrame_fsm (s : State) : (raiseNewFrame s).fsm = s.fsm := rfl
@[simp] theorem raiseNewFrame_idx (s : State) : (raiseNewFrame s).idx = s.idx := rfl
@[simp] theorem raiseNewFrame_mode (s : State) : (raiseNewFrame s).mode = s.mode := rfl
@[simp] theorem raiseNewFrame_frameCount (s : State) : (raiseNewFrame s).frameCount = s.frameCount := rfl
@[simp] theorem raiseNewFrame_newFrameFlag (s : State) : (raiseNewFrame s).newFrameFlag = true := rfl
@[simp] theorem raiseNewFrame_rdmChangedFlag (s : State) : (raiseNewFrame s).rdmChangedFlag = s.rdmChangedFlag := rfl
@[simp] theorem raiseNewFrame_mute (s : State) : (raiseNewFrame s).mute = s.mute := rfl
@[simp] theorem raiseNewFrame_identify (s : State) : (raiseNewFrame s).identify = s.identify := rfl
@[simp] theorem raiseNewFrame_label (s : State) : (raiseNewFrame s).label = s.label := rfl
@[simp] theorem raiseNewFrame_startAddr (s : State) : (raiseNewFrame s).startAddr = s.startAddr := rfl
@[simp] theorem raiseNewFrame_t0 (s : State) : (raiseNewFrame s).t0 = s.t0 := rfl
@[simp] theorem raiseNewFrame_irqSuppress (s : State) : (raiseNewFrame s).irqSuppress = s.irqSuppress := rfl
@[simp] theorem raiseNewFrame_rxq (s : State) : (raiseNewFrame s).rxq = s.rxq := rfl
@[simp] theorem raiseNewFrame_lineTiming (s : State) : (raiseNewFrame s).lineTiming = s.lineTiming := rfl
@[simp] theorem raiseNewFrame_lineDir (s : State) : (raiseNewFrame s).lineDir = s.lineDir := rfl
@[simp] theorem raiseNewFrame_now (s : State) : (raiseNewFrame s).now = s.now := rfl
@[simp] theorem raiseNewFrame_cfg (s : State) : (raiseNewFrame s).cfg = s.cfg := rfl
@[simp] theorem raiseNewFrame_inbox (s : State) : (raiseNewFrame s).inbox = s.inbox := rfl
@[simp] theorem raiseNewFrame_out (s : State) : (raiseNewFrame s).out = s.out := rfl
@[simp] theorem raiseNewFrame_returned (s : State) : (raiseNewFrame s).returned = s.returned := rfl
@[simp] theorem raiseNewFrame_draws (s : State) : (raiseNewFrame s).draws = s.draws := rfl
@[simp] theorem raiseNewFrame_actAddr (s : State) (off : Nat) :
    (raiseNewFrame s).actAddr off = s.actAddr off := rfl
@[simp] theorem raiseNewFrame_inactAddr (s : State) (off : Nat) :
    (raiseNewFrame s).inactAddr off = s.inactAddr off := rfl
@[simp] theorem raiseNewFrame_peek (s : State) (j : Nat) : (raiseNewFrame s).peek j = s.peek j := rfl
@[simp] theorem raiseNewFrame_peekBytes (s : State) (j n : Nat) :
    (raiseNewFrame s).peekBytes j n = s.peekBytes j n := rfl

/-! ### raiseRdmChanged -/

@[simp] theorem raiseRdmChanged_mem (s : State) : (raiseRdmChanged s).mem = s.mem := rfl
@[simp] theorem raiseRdmChanged_act (s : State) : (raiseRdmChanged s).act = s.act := rfl
@[simp] theorem raiseRdmChanged_fsm (s : State) : (raiseRdmChanged s).fsm = s.fsm := rfl
@[simp] theorem raiseRdmChanged_idx (s : State) : (raiseRdmChanged s).idx = s.idx := rfl
@[simp] theorem raiseRdmChanged_mode (s : State) : (raiseRdmChanged s).mode = s.mode := rfl
@[simp] theorem raiseRdmChanged_frameCount (s : State) : (raiseRdmChanged s).frameCount = s.frameCount := rfl
@[simp] theorem raiseRdmChanged_newFrameFlag (s : State) : (raiseRdmChanged s).newFrameFlag = s.newFrameFlag := rfl
@[simp] theorem raiseRdmChanged_rdmChangedFlag (s : State) : (raiseRdmChanged s).rdmChangedFlag = true := rfl
@[simp] theorem raiseRdmChanged_mute (s : State) : (raiseRdmChanged s).mute = s.mute := rfl
@[simp] theorem raiseRdmChanged_identify (s : State) : (raiseRdmChanged s).identify = s.identify := rfl
@[simp] theorem raiseRdmChanged_label (s : State) : (raiseRdmChanged s).label = s.label := rfl
@[simp] theorem raiseRdmChanged_startAddr (s : State) : (raiseRdmChanged s).startAddr = s.startAddr := rfl
@[simp] theorem raiseRdmChanged_t0 (s : State) : (raiseRdmChanged s).t0 = s.t0 := rfl
@[simp] theorem raiseRdmChanged_irqSuppress (s : State) : (raiseRdmChanged s).irqSuppress = s.irqSuppress := rfl
@[simp] theorem raiseRdmChanged_rxq (s : State) : (raiseRdmChanged s).rxq = s.rxq := rfl
@[simp] theorem raiseRdmChanged_lineTiming (s : State) : (raiseRdmChanged s).lineTiming = s.lineTiming := rfl
@[simp] theorem raiseRdmChanged_lineDir (s : State) : (raiseRdmChanged s).lineDir = s.lineDir := rfl
@[simp] theorem raiseRdmChanged_now (s : State) : (raiseRdmChanged s).now = s.now := rfl
@[simp] theorem raiseRdmChanged_cfg (s : State) : (raiseRdmChanged s).cfg = s.cfg := rfl
@[simp] theorem raiseRdmChanged_inbox (s : State) : (raiseRdmChanged s).inbox = s.inbox := rfl
@[simp] theorem raiseRdmChanged_out (s : State) : (raiseRdmChanged s).out = s.out := rfl
@[simp] theorem raiseRdmChanged_returned (s : State) : (raiseRdmChanged s).returned = s.returned := rfl
@[simp] theorem raiseRdmChanged_draws (s : State) : (raiseRdmChanged s).draws = s.draws := rfl
@[simp] theorem raiseRdmChanged_actAddr (s : State) (off : Nat) :
    (raiseRdmChanged s).actAddr off = s.actAddr off := rfl
@[simp] theorem raiseRdmChanged_inactAddr (s : State) (off : Nat) :
    (raiseRdmChanged s).inactAddr off = s.inactAddr off := rfl
@[simp] theorem raiseRdmChanged_peek (s : State) (j : Nat) : (raiseRdmChanged s).peek j = s.peek j := rfl
@[simp] theorem raiseRdmChanged_peekBytes (s : State) (j n : Nat) :
    (raiseRdmChanged s).peekBytes j n = s.peekBytes j n := rfl

/-! ### setMute -/

@[simp] theorem setMute_mem (m : Bool) (s : State) : (setMute m s).mem = s.mem := rfl
@[simp] theorem setMute_act (m : Bool) (s : State) : (setMute m s).act = s.act := rfl
@[simp] theorem setMute_fsm (m : Bool) (s : State) : (setMute m s).fsm = s.fsm := rfl
@[simp] theorem setMute_idx (m : Bool) (s : State) : (setMute m s).idx = s.idx := rfl
@[simp] theorem setMute_mode (m : Bool) (s : State) : (setMute m s).mode = s.mode := rfl
@[simp] theorem setMute_frameCount (m : Bool) (s : State) : (setMute m s).frameCount = s.frameCount := rfl
@[simp] theorem setMute_newFrameFlag (m : Bool) (s : State) : (setMute m s).newFrameFlag = s.newFrameFlag := rfl
@[simp] theorem setMute_rdmChangedFlag (m : Bool) (s : State) : (setMute m s).rdmChangedFlag = s.rdmChangedFlag := rfl
@[simp] theorem setMute_mute (m : Bool) (s : State) : (setMute m s).mute = m := rfl
@[simp] theorem setMute_identify (m : Bool) (s : State) : (setMute m s).identify = s.identify := rfl
@[simp] theorem setMute_label (m : Bool) (s : State) : (setMute m s).label = s.label := rfl
@[simp] theorem setMute_startAddr (m : Bool) (s : State) : (setMute m s).startAddr = s.startAddr := rfl
@[simp] theorem setMute_t0 (m : Bool) (s : State) : (setMute m s).t0 = s.t0 := rfl
@[simp] theorem setMute_irqSuppress (m : Bool) (s : State) : (setMute m s).irqSuppress = s.irqSuppress := rfl
@[simp] theorem setMute_rxq (m : Bool) (s : State) : (setMute m s).rxq = s.rxq := rfl
@[simp] theorem setMute_lineTiming (m : Bool) (s : State) : (setMute m s).lineTiming = s.lineTiming := rfl
@[simp] theorem setMute_lineDir (m : Bool) (s : State) : (setMute m s).lineDir = s.lineDir := rfl
@[simp] theorem setMute_now (m : Bool) (s : State) : (setMute m s).now = s.now := rfl
@[simp] theorem setMute_cfg (m : Bool) (s : State) : (setMute m s).cfg = s.cfg := rfl
@[simp] theorem setMute_inbox (m : Bool) (s : State) : (setMute m s).inbox = s.inbox := rfl
@[simp] theorem setMute_out (m : Bool) (s : State) : (setMute m s).out = s.out := rfl
@[simp] theorem setMute_returned (m : Bool) (s : State) : (setMute m s).returned = s.returned := rfl
@[simp] theorem setMute_draws (m : Bool) (s : State) : (setMute m s).draws = s.draws := rfl
@[simp] theorem setMute_actAddr (m : Bool) (s : State) (off : Nat) :
    (setMute m s).actAddr off = s.actAddr off := rfl
@[simp] theorem setMute_inactAddr (m : Bool) (s : State) (off : Nat) :
    (setMute m s).inactAddr off = s.inactAddr off := rfl
@[simp] theorem setMute_peek (m : Bool) (s : State) (j : Nat) : (setMute m s).peek j = s.peek j := rfl
@[simp] theorem setMute_peekBytes (m : Bool) (s : State) (j n : Nat) :
    (setMute m s).peekBytes j n = s.peekBytes j n := rfl

/-! ### setIdentify -/

@[simp] theorem setIdentify_mem (v : Bool) (s : State) : (setIdentify v s).mem = s.mem := rfl
@[simp] theorem setIdentify_act (v : Bool) (s : State) : (setIdentify v s).act = s.act := rfl
@[simp] theorem setIdentify_fsm (v : Bool) (s : State) : (setIdentify v s).fsm = s.fsm := rfl
@[simp] theorem setIdentify_idx (v : Bool) (s : State) : (setIdentify v s).idx = s.idx := rfl
@[simp] theorem setIdentify_mode (v : Bool) (s : State) : (setIdentify v s).mode = s.mode := rfl
@[simp] theorem setIdentify_frameCount (v : Bool) (s : State) : (setIdentify v s).frameCount = s.frameCount := rfl
@[simp] theorem setIdentify_newFrameFlag (v : Bool) (s : State) : (setIdentify v s).newFrameFlag = s.newFrameFlag := rfl
@[simp] theorem setIdentify_rdmChangedFlag (v : Bool) (s : State) : (setIdentify v s).rdmChangedFlag = s.rdmChangedFlag := rfl
@[simp] theorem setIdentify_mute (v : Bool) (s : State) : (setIdentify v s).mute = s.mute := rfl
@[simp] theorem setIdentify_identify (v : Bool) (s : State) : (setIdentify v s).identify = v := rfl
@[simp] theorem setIdentify_label (v : Bool) (s : State) : (setIdentify v s).label = s.label := rfl
@[simp] theorem setIdentify_startAddr (v : Bool) (s : State) : (setIdentify v s).startAddr = s.startAddr := rfl
@[simp] theorem setIdentify_t0 (v : Bool) (s : State) : (setIdentify v s).t0 = s.t0 := rfl
@[simp] theorem setIdentify_irqSuppress (v : Bool) (s : State) : (setIdentify v s).irqSuppress = s.irqSuppress := rfl
@[simp] theorem setIdentify_rxq (v : Bool) (s : State) : (setIdentify v s).rxq = s.rxq := rfl
@[simp] theorem setIdentify_lineTiming (v : Bool) (s : State) : (setIdentify v s).lineTiming = s.lineTiming := rfl
@[simp] theorem setIdentify_lineDir (v : Bool) (s : State) : (setIdentify v s).lineDir = s.lineDir := rfl
@[simp] theorem setIdentify_now (v : Bool) (s : State) : (setIdentify v s).now = s.now := rfl
@[simp] theorem setIdentify_cfg (v : Bool) (s : State) : (setIdentify v s).cfg = s.cfg := rfl
@[simp] theorem setIdentify_inbox (v : Bool) (s : State) : (setIdentify v s).inbox = s.inbox := rfl
@[simp] theorem setIdentify_out (v : Bool) (s : State) : (setIdentify v s).out = s.out := rfl
@[simp] theorem setIdentify_returned (v : Bool) (s : State) : (setIdentify v s).returned = s.returned := rfl
@[simp] theorem setIdentify_draws (v : Bool) (s : State) : (setIdentify v s).draws = s.draws := rfl
@[simp] theorem setIdentify_actAddr (v : Bool) (s : State) (off : Nat) :
    (setIdentify v s).actAddr off = s.actAddr off := rfl
@[simp] theorem setIdentify_inactAddr (v : Bool) (s : State) (off : Nat) :
    (setIdentify v s).inactAddr off = s.inactAddr off := rfl
@[simp] theorem setIdentify_peek (v : Bool) (s : State) (j : Nat) : (setIdentify v s).peek j = s.peek j := rfl
@[simp] theorem setIdentify_peekBytes (v : Bool) (s : State) (j n : Nat) :
    (setIdentify v s).peekBytes j n = s.peekBytes j n := rfl

/-! ### countFrame -/

@[simp] theorem countFrame_mem (s : State) : (countFrame s).mem = s.mem := rfl
@[simp] theorem countFrame_act (s : State) : (countFrame s).act = s.act := rfl
@[simp] theorem countFrame_fsm (s : State) : (countFrame s).fsm = s.fsm := rfl
@[simp] theorem countFrame_idx (s : State) : (countFrame s).idx = s.idx := rfl
@[simp] theorem countFrame_mode (s : State) : (countFrame s).mode = s.mode := rfl
@[simp] theorem countFrame_frameCount (s : State) : (countFrame s).frameCount = (s.frameCount + 1) % 2 ^ s.cfg.fcW := rfl
@[simp] theorem countFrame_newFrameFlag (s : State) : (countFrame s).newFrameFlag = s.newFrameFlag := rfl
@[simp] theorem countFrame_rdmChangedFlag (s : State) : (countFrame s).rdmChangedFlag = s.rdmChangedFlag := rfl
@[simp] theorem countFrame_mute (s : State) : (countFrame s).mute = s.mute := rfl
@[simp] theorem countFrame_identify (s : State) : (countFrame s).identify = s.identify := rfl
@[simp] theorem countFrame_label (s : State) : (countFrame s).label = s.label := rfl
@[simp] theorem countFrame_startAddr (s : State) : (countFrame s).startAddr = s.startAddr := rfl
@[simp] theorem countFrame_t0 (s : State) : (countFrame s).t0 = s.t0 := rfl
@[simp] theorem countFrame_irqSuppress (s : State) : (countFrame s).irqSuppress = s.irqSuppress := rfl
@[simp] theorem countFrame_rxq (s : State) : (countFrame s).rxq = s.rxq := rfl
@[simp] theorem countFrame_lineTiming (s : State) : (countFrame s).lineTiming = s.lineTiming := rfl
@[simp] theorem countFrame_lineDir (s : State) : (countFrame s).lineDir = s.lineDir := rfl
@[simp] theorem countFrame_now (s : State) : (countFrame s).now = s.now := rfl
@[simp] theorem countFrame_cfg (s : State) : (countFrame s).cfg = s.cfg := rfl
@[simp] theorem countFrame_inbox (s : State) : (countFrame s).inbox = s.inbox := rfl
@[simp] theorem countFrame_out (s : State) : (countFrame s).out = s.out := rfl
@[simp] theorem countFrame_returned (s : State) : (countFrame s).returned = s.returned := rfl
@[simp] theorem countFrame_draws (s : State) : (countFrame s).draws = s.draws := rfl
@[simp] theorem countFrame_actAddr (s : State) (off : Nat) :
    (countFrame s).actAddr off = s.actAddr off := rfl
@[simp] theorem countFrame_inactAddr (s : State) (off : Nat) :
    (countFrame s).inactAddr off = s.inactAddr off := rfl
@[simp] theorem countFrame_peek (s : State) (j : Nat) : (countFrame s).peek j = s.peek j := rfl
@[simp] theorem countFrame_peekBytes (s : State) (j n : Nat) :
    (countFrame s).peekBytes j n = s.peekBytes j n := rfl

/-! ### beginDispatch -/

@[simp] theorem beginDispatch_mem (t : Nat) (s : State) : (beginDispatch t s).mem = s.mem := rfl
@[simp] theorem beginDispatch_act (t : Nat) (s : State) : (beginDispatch t s).act = s.act := rfl
@[simp] theorem beginDispatch_fsm (t : Nat) (s : State) : (beginDispatch t s).fsm = s.fsm := rfl
@[simp] theorem beginDispatch_idx (t : Nat) (s : State) : (beginDispatch t s).idx = s.idx := rfl
@[simp] theorem beginDispatch_mode (t : Nat) (s : State) : (beginDispatch t s).mode = s.mode := rfl
@[simp] theorem beginDispatch_frameCount (t : Nat) (s : State) : (beginDispatch t s).frameCount = s.frameCount := rfl
@[simp] theorem beginDispatch_newFrameFlag (t : Nat) (s : State) : (beginDispatch t s).newFrameFlag = s.newFrameFlag := rfl
@[simp] theorem beginDispatch_rdmChangedFlag (t : Nat) (s : State) : (beginDispatch t s).rdmChangedFlag = s.rdmChangedFlag := rfl
@[simp] theorem beginDispatch_mute (t : Nat) (s : State) : (beginDispatch t s).mute = s.mute := rfl
@[simp] theorem beginDispatch_identify (t : Nat) (s : State) : (beginDispatch t s).identify = s.identify := rfl
@[simp] theorem beginDispatch_label (t : Nat) (s : State) : (beginDispatch t s).label = s.label := rfl
@[simp] theorem beginDispatch_startAddr (t : Nat) (s : State) : (beginDispatch t s).startAddr = s.startAddr := rfl
@[simp] theorem beginDispatch_t0 (t : Nat) (s : State) : (beginDispatch t s).t0 = t % 2 ^ s.cfg.timeW := rfl
@[simp] theorem beginDispatch_irqSuppress (t : Nat) (s : State) : (beginDispatch t s).irqSuppress = s.irqSuppress := rfl
@[simp] theorem beginDispatch_rxq (t : Nat) (s : State) : (beginDispatch t s).rxq = s.rxq := rfl
@[simp] theorem beginDispatch_lineTiming (t : Nat) (s : State) : (beginDispatch t s).lineTiming = s.lineTiming := rfl
@[simp] theorem beginDispatch_lineDir (t : Nat) (s : State) : (beginDispatch t s).lineDir = s.lineDir := rfl
@[simp] theorem beginDispatch_now (t : Nat) (s : State) : (beginDispatch t s).now = t % 2 ^ s.cfg.timeW := rfl
@[simp] theorem beginDispatch_cfg (t : Nat) (s : State) : (beginDispatch t s).cfg = s.cfg := rfl
@[simp] theorem beginDispatch_inbox (t : Nat) (s : State) : (beginDispatch t s).inbox = s.inbox := rfl
@[simp] theorem beginDispatch_out (t : Nat) (s : State) : (beginDispatch t s).out = s.out := rfl
@[simp] theorem beginDispatch_returned (t : Nat) (s : State) : (beginDispatch t s).returned = s.returned := rfl
@[simp] theorem beginDispatch_draws (t : Nat) (s : State) : (beginDispatch t s).draws = s.draws := rfl
@[simp] theorem beginDispatch_actAddr (t : Nat) (s : State) (off : Nat) :
    (beginDispatch t s).actAddr off = s.actAddr off := rfl
@[simp] theorem beginDispatch_inactAddr (t : Nat) (s : State) (off : Nat) :
    (beginDispatch t s).inactAddr off = s.inactAddr off := rfl
@[simp] theorem beginDispatch_peek (t : Nat) (s : State) (j : Nat) : (beginDispatch t s).peek j = s.peek j := rfl
@[simp] theorem beginDispatch_peekBytes (t : Nat) (s : State) (j n : Nat) :
    (beginDispatch t s).peekBytes j n = s.peekBytes j n := rfl

/-! ### atResponse -/

@[simp] theorem atResponse_mem (t : Nat) (s : State) : (atResponse t s).mem = s.mem := rfl
@[simp] theorem atResponse_act (t : Nat) (s : State) : (atResponse t s).act = s.act := rfl
@[simp] theorem atResponse_fsm (t : Nat) (s : State) : (atResponse t s).fsm = s.fsm := rfl
@[simp] theorem atResponse_idx (t : Nat) (s : State) : (atResponse t s).idx = s.idx := rfl
@[simp] theorem atResponse_mode (t : Nat) (s : State) : (atResponse t s).mode = s.mode := rfl
@[simp] theorem atResponse_frameCount (t : Nat) (s : State) : (atResponse t s).frameCount = s.frameCount := rfl
@[simp] theorem atResponse_newFrameFlag (t : Nat) (s : State) : (atResponse t s).newFrameFlag = s.newFrameFlag := rfl
@[simp] theorem atResponse_rdmChangedFlag (t : Nat) (s : State) : (atResponse t s).rdmChangedFlag = s.rdmChangedFlag := rfl
@[simp] theorem atResponse_mute (t : Nat) (s : State) : (atResponse t s).mute = s.mute := rfl
@[simp] theorem atResponse_identify (t : Nat) (s : State) : (atResponse t s).identify = s.identify := rfl
@[simp] theorem atResponse_label (t : Nat) (s : State) : (atResponse t s).label = s.label := rfl
@[simp] theorem atResponse_startAddr (t : Nat) (s : State) : (atResponse t s).startAddr = s.startAddr := rfl
@[simp] theorem atResponse_t0 (t : Nat) (s : State) : (atResponse t s).t0 = s.t0 := rfl
@[simp] theorem atResponse_irqSuppress (t : Nat) (s : State) : (atResponse t s).irqSuppress = s.irqSuppress := rfl
@[simp] theorem atResponse_rxq (t : Nat) (s : State) : (atResponse t s).rxq = s.rxq := rfl
@[simp] theorem atResponse_lineTiming (t : Nat) (s : State) : (atResponse t s).lineTiming = s.lineTiming := rfl
@[simp] theorem atResponse_lineDir (t : Nat) (s : State) : (atResponse t s).lineDir = s.lineDir := rfl
@[simp] theorem atResponse_now (t : Nat) (s : State) : (atResponse t s).now = t % 2 ^ s.cfg.timeW := rfl
@[simp] theorem atResponse_cfg (t : Nat) (s : State) : (atResponse t s).cfg = s.cfg := rfl
@[simp] theorem atResponse_inbox (t : Nat) (s : State) : (atResponse t s).inbox = s.inbox := rfl
@[simp] theorem atResponse_out (t : Nat) (s : State) : (atResponse t s).out = s.out := rfl
@[simp] theorem atResponse_returned (t : Nat) (s : State) : (atResponse t s).returned = s.returned := rfl
@[simp] theorem atResponse_draws (t : Nat) (s : State) : (atResponse t s).draws = s.draws := rfl
@[simp] theorem atResponse_actAddr (t : Nat) (s : State) (off : Nat) :
    (atResponse t s).actAddr off = s.actAddr off := rfl
@[simp] theorem atResponse_inactAddr (t : Nat) (s : State) (off : Nat) :
    (atResponse t s).inactAddr off = s.inactAddr off := rfl
@[simp] theorem atResponse_peek (t : Nat) (s : State) (j : Nat) : (atResponse t s).peek j = s.peek j := rfl
@[simp] theorem atResponse_peekBytes (t : Nat) (s : State) (j n : Nat) :
    (atResponse t s).peekBytes j n = s.peekBytes j n := rfl

end Sys2Proof.Machine
end

