-- ==== Sys2Proof/Laws/Memory.lean ====
section
/-! SUPPORT. The laws of the frame memory: a read after a write, the canonical form kept by every
write, byte strings, and the same at the level of the active buffer. -/

namespace Sys2Proof.Machine

/-! ### Cells -/

theorem lookupCell_insertCell (cs : List Host.Cell) (a : Nat) (v : Byte) (b : Nat) :
    lookupCell (insertCell cs a v) b = if b = a then some v else lookupCell cs b := by
  induction cs with
  | nil => simp only [insertCell, lookupCell, eq_comm]
  | cons c cs ih =>
    obtain ⟨k, w⟩ := c
    simp only [insertCell]
    split
    · simp only [lookupCell, eq_comm (a := a)]
    · split
      · subst_vars; simp only [lookupCell]; grind
      · simp only [lookupCell, ih]; grind

theorem lookupCell_eraseCell (cs : List Host.Cell) (a b : Nat) :
    lookupCell (eraseCell cs a) b = if b = a then none else lookupCell cs b := by
  induction cs with
  | nil => simp [eraseCell, lookupCell]
  | cons c cs ih =>
    obtain ⟨k, w⟩ := c
    simp only [eraseCell, List.filter_cons, lookupCell] at ih ⊢
    grind [lookupCell]

/-! ### One byte -/

@[simp] theorem Memory.unlisted_write (m : Memory) (a : Nat) (v : Byte) (b : Nat) :
    (m.write a v).unlisted b = m.unlisted b := rfl

@[simp] theorem Memory.draw_write (m : Memory) (a : Nat) (v : Byte) :
    (m.write a v).draw = m.draw := rfl

/-- A read after a write, at the same address and at every other. -/
theorem Memory.read_write (m : Memory) (a : Nat) (v : Byte) (b : Nat) :
    (m.write a v).read b = if b = a then v else m.read b := by
  unfold Memory.read
  rw [Memory.unlisted_write]
  unfold Memory.write
  split
  · simp only [lookupCell_eraseCell]; split <;> simp_all
  · simp only [lookupCell_insertCell]; split <;> simp_all

@[simp] theorem Memory.read_write_same (m : Memory) (a : Nat) (v : Byte) :
    (m.write a v).read a = v := by simp [Memory.read_write]

theorem Memory.read_write_other (m : Memory) {a b : Nat} (v : Byte) (h : b ≠ a) :
    (m.write a v).read b = m.read b := by simp [Memory.read_write, h]

/-! ### Byte strings -/

@[simp] theorem Memory.unlisted_writeBytes (m : Memory) (a : Nat) (bs : List Byte) (b : Nat) :
    (m.writeBytes a bs).unlisted b = m.unlisted b := by
  induction bs generalizing m a with
  | nil => rfl
  | cons c cs ih => simp [Memory.writeBytes, ih]

@[simp] theorem Memory.writeBytes_nil (m : Memory) (a : Nat) : m.writeBytes a [] = m := rfl

/-- A read after a byte string was written. -/
theorem Memory.read_writeBytes (m : Memory) (a : Nat) (bs : List Byte) (b : Nat) :
    (m.writeBytes a bs).read b =
      if a ≤ b ∧ b < a + bs.length then bs.getD (b - a) 0 else m.read b := by
  induction bs generalizing m a with
  | nil => simp only [Memory.writeBytes, List.length_nil]; split <;> [omega; rfl]
  | cons c cs ih =>
    simp only [Memory.writeBytes, ih, Memory.read_write, List.length_cons]
    by_cases h1 : b = a
    · subst h1
      rw [if_neg (by omega), if_pos rfl, if_pos (by omega)]
      simp
    · by_cases h2 : a + 1 ≤ b ∧ b < a + 1 + cs.length
      · obtain ⟨k, rfl⟩ : ∃ k, b = a + 1 + k := ⟨b - a - 1, by omega⟩
        rw [if_pos h2, if_pos (by omega)]
        have : a + 1 + k - a = k + 1 := by omega
        simp [this]
      · rw [if_neg h2, if_neg h1, if_neg (by omega)]

theorem Memory.read_writeBytes_outside (m : Memory) (a : Nat) (bs : List Byte) (b : Nat)
    (h : b < a ∨ a + bs.length ≤ b) : (m.writeBytes a bs).read b = m.read b := by
  rw [Memory.read_writeBytes, if_neg (by omega)]

@[simp] theorem Memory.readBytes_length (m : Memory) (a n : Nat) :
    (m.readBytes a n).length = n := by
  induction n generalizing a with
  | zero => rfl
  | succ n ih => simp [Memory.readBytes, ih]

theorem Memory.readBytes_getElem (m : Memory) (a n k : Nat) (h : k < (m.readBytes a n).length) :
    (m.readBytes a n)[k] = m.read (a + k) := by
  induction n generalizing a k with
  | zero => simp [Memory.readBytes] at h
  | succ n ih =>
    cases k with
    | zero => rfl
    | succ k =>
      simp only [Memory.readBytes, List.getElem_cons_succ]
      rw [ih]
      congr 1
      omega

theorem Memory.readBytes_add (m : Memory) (a n k : Nat) :
    m.readBytes a (n + k) = m.readBytes a n ++ m.readBytes (a + n) k := by
  induction n generalizing a with
  | zero => simp [Memory.readBytes]
  | succ n ih =>
    rw [Nat.succ_add]
    simp only [Memory.readBytes, ih, List.cons_append]
    congr 3
    omega

/-- Two memories that agree on a range read the same bytes there. -/
theorem Memory.readBytes_congr {m m' : Memory} {a n : Nat}
    (h : ∀ k, k < n → m.read (a + k) = m'.read (a + k)) : m.readBytes a n = m'.readBytes a n := by
  apply List.ext_getElem
  · simp
  · intro k h1 h2
    rw [Memory.readBytes_getElem, Memory.readBytes_getElem]
    exact h k (by simpa using h1)

/-- What a byte string was written as is what is read back. -/
theorem Memory.readBytes_writeBytes_same (m : Memory) (a : Nat) (bs : List Byte) :
    (m.writeBytes a bs).readBytes a bs.length = bs := by
  apply List.ext_getElem
  · simp
  · intro k h1 h2
    rw [Memory.readBytes_getElem, Memory.read_writeBytes, if_pos (by simp at h1; omega)]
    simp [h2]

theorem Memory.readBytes_writeBytes_disjoint (m : Memory) (a : Nat) (bs : List Byte) (b n : Nat)
    (h : b + n ≤ a ∨ a + bs.length ≤ b) : (m.writeBytes a bs).readBytes b n = m.readBytes b n :=
  Memory.readBytes_congr fun _ _ => Memory.read_writeBytes_outside _ _ _ _ (by omega)

theorem Memory.writeBytes_append (m : Memory) (a : Nat) (bs cs : List Byte) :
    m.writeBytes a (bs ++ cs) = (m.writeBytes a bs).writeBytes (a + bs.length) cs := by
  induction bs generalizing m a with
  | nil => rfl
  | cons b bs ih =>
    simp only [List.cons_append, Memory.writeBytes, ih, List.length_cons]
    congr 1
    omega

/-! ### The canonical form -/

theorem mem_insertCell {cs : List Host.Cell} {a : Nat} {v : Byte} {c : Host.Cell}
    (h : c ∈ insertCell cs a v) : c = (a, v) ∨ c ∈ cs := by
  induction cs with
  | nil => simpa [insertCell] using h
  | cons d ds ih =>
    obtain ⟨k, w⟩ := d
    simp only [insertCell] at h
    split at h
    · simpa using h
    · split at h
      · simp only [List.mem_cons] at h ⊢; tauto
      · simp only [List.mem_cons] at h ⊢
        rcases h with h | h
        · tauto
        · rcases ih h with h | h <;> tauto

theorem rising_insertCell {cs : List Host.Cell} (a : Nat) (v : Byte) (h : rising cs = true) :
    rising (insertCell cs a v) = true := by
  induction cs with
  | nil => rfl
  | cons d ds ih =>
    obtain ⟨k, w⟩ := d
    simp only [rising, Bool.and_eq_true, List.all_eq_true, decide_eq_true_eq] at h
    simp only [insertCell]
    split
    · simp only [rising, Bool.and_eq_true, List.all_eq_true, decide_eq_true_eq, List.mem_cons]
      refine ⟨?_, h⟩
      rintro c (rfl | hc)
      · assumption
      · have := h.1 c hc; omega
    · split
      · subst_vars
        simp only [rising, Bool.and_eq_true, List.all_eq_true, decide_eq_true_eq]
        exact h
      · simp only [rising, Bool.and_eq_true, List.all_eq_true, decide_eq_true_eq]
        refine ⟨fun c hc => ?_, ih h.2⟩
        rcases mem_insertCell hc with rfl | hc
        · simp only; omega
        · exact h.1 c hc

theorem rising_filter {cs : List Host.Cell} (p : Host.Cell → Bool) (h : rising cs = true) :
    rising (cs.filter p) = true := by
  induction cs with
  | nil => rfl
  | cons d ds ih =>
    simp only [rising, Bool.and_eq_true, List.all_eq_true, decide_eq_true_eq] at h
    simp only [List.filter_cons]
    split
    · simp only [rising, Bool.and_eq_true, List.all_eq_true, decide_eq_true_eq]
      exact ⟨fun c hc => h.1 c (List.mem_of_mem_filter hc), ih h.2⟩
    · exact ih h.2

/-- The canonical form, as a proposition. -/
theorem Memory.wf_iff (m : Memory) :
    m.wf = true ↔ m.draw.length = 1024 ∧ rising m.cells = true ∧
      ∀ c ∈ m.cells, c.1 < 1024 ∧ c.2 ≠ m.unlisted c.1 := by
  simp [Memory.wf, and_assoc]

/-- Every write to an address that exists keeps the canonical form. -/
theorem Memory.wf_write {m : Memory} {a : Nat} (v : Byte) (h : m.wf = true) (ha : a < 1024) :
    (m.write a v).wf = true := by
  rw [Memory.wf_iff] at h ⊢
  obtain ⟨h1, h2, h3⟩ := h
  refine ⟨h1, ?_, ?_⟩
  · unfold Memory.write; simp only; split
    · exact rising_filter _ h2
    · exact rising_insertCell a v h2
  · intro c hc
    rw [Memory.unlisted_write]
    unfold Memory.write at hc; simp only at hc; split at hc
    · exact h3 c (List.mem_of_mem_filter hc)
    · rcases mem_insertCell hc with rfl | hc
      · exact ⟨ha, by assumption⟩
      · exact h3 c hc

theorem Memory.wf_writeBytes {m : Memory} {a : Nat} {bs : List Byte} (h : m.wf = true)
    (ha : a + bs.length ≤ 1024) : (m.writeBytes a bs).wf = true := by
  induction bs generalizing m a with
  | nil => exact h
  | cons b bs ih =>
    simp only [List.length_cons] at ha
    exact ih (Memory.wf_write b h (by omega)) (by omega)

/-- A memory nothing was written to is in canonical form. -/
theorem Memory.wf_ofDraw {draw : List Byte} (h : draw.length = 1024) :
    (Memory.ofDraw draw).wf = true := by
  simp [Memory.wf_iff, Memory.ofDraw, h, rising]

/-! ### The canonical form is canonical -/

theorem lookupCell_eq_none {cs : List Host.Cell} {a : Nat} (h : ∀ c ∈ cs, c.1 ≠ a) :
    lookupCell cs a = none := by
  induction cs with
  | nil => rfl
  | cons c cs ih =>
    obtain ⟨k, v⟩ := c
    simp only [List.mem_cons, forall_eq_or_imp] at h
    simp only [lookupCell, if_neg h.1, ih h.2]

theorem lookupCell_mem {cs : List Host.Cell} {a : Nat} {v : Byte} (h : lookupCell cs a = some v) :
    (a, v) ∈ cs := by
  induction cs with
  | nil => cases h
  | cons c cs ih =>
    obtain ⟨k, w⟩ := c
    simp only [lookupCell] at h
    split at h
    · rename_i e
      cases h
      subst e
      simp
    · exact List.mem_cons_of_mem _ (ih h)

/-- Lists of cells by rising address that list the same bytes are equal. -/
theorem eq_of_lookupCell_eq {cs ds : List Host.Cell} (hc : rising cs = true)
    (hd : rising ds = true) (h : ∀ a, lookupCell cs a = lookupCell ds a) : cs = ds := by
  induction cs generalizing ds with
  | nil =>
    cases ds with
    | nil => rfl
    | cons d ds =>
      have := h d.1
      simp [lookupCell] at this
  | cons c cs ih =>
    obtain ⟨k, v⟩ := c
    simp only [rising, Bool.and_eq_true, List.all_eq_true, decide_eq_true_eq] at hc
    cases ds with
    | nil =>
      have := h k
      simp [lookupCell] at this
    | cons d ds =>
      obtain ⟨l, w⟩ := d
      simp only [rising, Bool.and_eq_true, List.all_eq_true, decide_eq_true_eq] at hd
      have hkl : k = l := by
        have h1 := h k
        have h2 := h l
        simp only [lookupCell, if_true] at h1 h2
        by_contra hne
        rw [if_neg (Ne.symm hne)] at h1
        rw [if_neg hne] at h2
        have a1 := hd.1 _ (lookupCell_mem h1.symm)
        have a2 := hc.1 _ (lookupCell_mem h2)
        simp only at a1 a2
        omega
      subst hkl
      have hv := h k
      simp only [lookupCell, if_true, Option.some.injEq] at hv
      subst hv
      congr 1
      refine ih hc.2 hd.2 fun a => ?_
      have ha := h a
      simp only [lookupCell] at ha
      split at ha
      · rename_i e
        subst e
        rw [lookupCell_eq_none fun c hm => (Nat.ne_of_lt (hc.1 c hm)).symm,
          lookupCell_eq_none fun c hm => (Nat.ne_of_lt (hd.1 c hm)).symm]
      · exact ha

/-- In the canonical form what is listed is determined by what is read. -/
theorem Memory.lookupCell_of_wf {m : Memory} (h : m.wf = true) (a : Nat) :
    lookupCell m.cells a =
      if a < 1024 ∧ m.read a ≠ m.unlisted a then some (m.read a) else none := by
  obtain ⟨_, _, hw⟩ := (Memory.wf_iff m).mp h
  unfold Memory.read
  cases e : lookupCell m.cells a with
  | none => simp
  | some v =>
    have hm := hw _ (lookupCell_mem e)
    simp only at hm
    simp [hm]

/-- Memories that came up alike and read alike are equal data. -/
theorem Memory.eq_of_read_eq {m m' : Memory} (h : m.wf = true) (h' : m'.wf = true)
    (hd : m.draw = m'.draw) (hr : ∀ a, a < 1024 → m.read a = m'.read a) : m = m' := by
  have hu : ∀ a, m.unlisted a = m'.unlisted a := fun a => by unfold Memory.unlisted; rw [hd]
  have hc : m.cells = m'.cells := by
    refine eq_of_lookupCell_eq ((Memory.wf_iff m).mp h).2.1 ((Memory.wf_iff m').mp h').2.1
      fun a => ?_
    rw [Memory.lookupCell_of_wf h, Memory.lookupCell_of_wf h', hu]
    by_cases ha : a < 1024
    · rw [hr a ha]
    · simp [ha]
  cases m
  cases m'
  simp_all

/-! ### The active buffer -/

theorem State.act_lt (s : State) : s.act.toNat < 2 := s.act.isLt

/-- The addresses of the active buffer exist. -/
theorem State.actAddr_lt (s : State) {off : Nat} (h : off < 512) : s.actAddr off < 1024 := by
  have := s.act_lt
  unfold State.actAddr
  omega

theorem State.actAddr_add (s : State) (off n : Nat) : s.actAddr (off + n) = s.actAddr off + n := by
  unfold State.actAddr; omega

/-- The two buffers are disjoint. -/
theorem State.inactAddr_ne_actAddr (s : State) {j k : Nat} (hj : j < 512) (hk : k < 512) :
    s.inactAddr j ≠ s.actAddr k := by
  have := s.act_lt
  unfold State.actAddr State.inactAddr
  omega

theorem State.peek_poke (s : State) (k : Nat) (v : Byte) (j : Nat) :
    (s.poke k v).peek j = if j = k then v else s.peek j := by
  unfold State.peek
  rw [State.poke_mem, State.poke_actAddr, Memory.read_write]
  have : s.actAddr j = s.actAddr k ↔ j = k := by unfold State.actAddr; omega
  simp only [this]

theorem State.peek_pokeBytes (s : State) (k : Nat) (bs : List Byte) (j : Nat) :
    (s.pokeBytes k bs).peek j =
      if k ≤ j ∧ j < k + bs.length then bs.getD (j - k) 0 else s.peek j := by
  unfold State.peek
  rw [State.pokeBytes_mem, State.pokeBytes_actAddr, Memory.read_writeBytes]
  unfold State.actAddr
  have h1 : (s.act.toNat * 512 + k ≤ s.act.toNat * 512 + j ∧
      s.act.toNat * 512 + j < s.act.toNat * 512 + k + bs.length) ↔
      (k ≤ j ∧ j < k + bs.length) := by omega
  have h2 : s.act.toNat * 512 + j - (s.act.toNat * 512 + k) = j - k := by omega
  simp only [h1, h2]

theorem State.peek_poke16 (s : State) (k : Nat) (v : Word16) (j : Nat) :
    (s.poke16 k v).peek j = if j = k then hi8 v else if j = k + 1 then lo8 v else s.peek j := by
  unfold State.poke16
  rw [State.peek_pokeBytes]
  by_cases h1 : j = k
  · subst h1; simp
  · by_cases h2 : j = k + 1
    · subst h2; simp
    · rw [if_neg (by simp only [List.length_cons, List.length_nil]; omega), if_neg h1, if_neg h2]

@[simp] theorem State.peekBytes_length (s : State) (k n : Nat) : (s.peekBytes k n).length = n := by
  simp [State.peekBytes]

theorem State.peekBytes_getElem (s : State) (k n j : Nat) (h : j < (s.peekBytes k n).length) :
    (s.peekBytes k n)[j] = s.peek (k + j) := by
  simp only [State.peekBytes, Memory.readBytes_getElem, State.peek, State.actAddr_add]

/-- Two states whose active buffers agree on a range read the same bytes there. -/
theorem State.peekBytes_congr {s t : State} {k n : Nat}
    (h : ∀ j, j < n → s.peek (k + j) = t.peek (k + j)) : s.peekBytes k n = t.peekBytes k n := by
  apply List.ext_getElem
  · simp
  · intro j h1 h2
    rw [State.peekBytes_getElem, State.peekBytes_getElem]
    exact h j (by simpa using h1)

theorem State.peekBytes_add (s : State) (k n j : Nat) :
    s.peekBytes k (n + j) = s.peekBytes k n ++ s.peekBytes (k + n) j := by
  simp only [State.peekBytes, Memory.readBytes_add, State.actAddr_add]

/-- A list is what is read from offset `k` as soon as it is so byte by byte. -/
theorem State.peekBytes_eq {s : State} {k : Nat} {bs : List Byte}
    (h : ∀ j, j < bs.length → s.peek (k + j) = bs.getD j 0) :
    s.peekBytes k bs.length = bs := by
  apply List.ext_getElem
  · simp
  · intro j h1 h2
    rw [State.peekBytes_getElem, h j h2]
    simp [h2]

end Sys2Proof.Machine
end

