-- ==== Sys2Proof/Laws/Ops.lean ====
section
/-! SUPPORT. What each shared operation of the machine can do, said once: sequencing, the bounds
check, storing at the index, output actions, the steps of the Response Builder, `Validate`. -/

namespace Sys2Proof.Machine

/-! ### Sequencing and bounds -/

@[simp] theorem andThen_next (s : State) (k : State → Result) : andThen (.next s) k = k s := rfl
@[simp] theorem andThen_fault (f : Fault) (k : State → Result) :
    andThen (.fault f) k = .fault f := rfl
@[simp] theorem andThen_refused (e : Refusal) (k : State → Result) :
    andThen (.refused e) k = .refused e := rfl

/-- A sequence goes on exactly when both parts do. -/
theorem andThen_eq_next {r : Result} {k : State → Result} {t : State} :
    andThen r k = .next t ↔ ∃ u, r = .next u ∧ k u = .next t := by
  cases r <;> simp [andThen]

theorem andThen_assoc (r : Result) (j k : State → Result) :
    andThen (andThen r j) k = andThen r fun s => andThen (j s) k := by
  cases r <;> rfl

theorem withinBounds_ok {s : State} (k : State → State) (h : s.sizesOk = true) :
    withinBounds k s = .next (k s) := by simp [withinBounds, h]

theorem withinBounds_refused {s : State} (k : State → State) (h : s.sizesOk = false) :
    withinBounds k s = .refused .parameterBounds := by simp [withinBounds, h]

/-- An operation that needs the bounds goes on exactly when they hold. -/
theorem withinBounds_eq_next {k : State → State} {s t : State} :
    withinBounds k s = .next t ↔ s.sizesOk = true ∧ t = k s := by
  unfold withinBounds
  split <;> simp_all
  exact eq_comm

/-! ### Storing at the index -/

theorem storeAtIdx_ok {s : State} (b : Byte) (h : s.idx < 512) :
    storeAtIdx b s = .next { s.poke s.idx b with idx := s.idx + 1 } := by simp [storeAtIdx, h]

theorem storeAtIdx_fault {s : State} (b : Byte) (h : 512 ≤ s.idx) :
    storeAtIdx b s = .fault (.frameMemoryRange s.idx) := by
  simp [storeAtIdx, Nat.not_lt.mpr h]

theorem storeAtIdx_eq_next {b : Byte} {s t : State} :
    storeAtIdx b s = .next t ↔ s.idx < 512 ∧ t = { s.poke s.idx b with idx := s.idx + 1 } := by
  unfold storeAtIdx
  split <;> simp_all
  exact eq_comm

/-! ### Output actions -/

theorem timingAfter_append (t : Timing) (xs ys : List Action) :
    timingAfter t (xs ++ ys) = timingAfter (timingAfter t xs) ys := by
  induction xs generalizing t with
  | nil => rfl
  | cons x xs ih => cases x <;> simp [timingAfter, ih]

theorem dirAfter_append (d : Dir) (xs ys : List Action) :
    dirAfter d (xs ++ ys) = dirAfter (dirAfter d xs) ys := by
  induction xs generalizing d with
  | nil => rfl
  | cons x xs ih => cases x <;> simp [dirAfter, ih]

@[simp] theorem timingAfter_wr (t : Timing) (bs : List Byte) :
    timingAfter t (bs.map .wr) = t := by
  induction bs <;> simp_all [timingAfter]

@[simp] theorem dirAfter_wr (d : Dir) (bs : List Byte) : dirAfter d (bs.map .wr) = d := by
  induction bs <;> simp_all [dirAfter]

/-- A burst leaves the line at data timing. -/
@[simp] theorem timingAfter_burst (t b : Timing) (bs : List Byte) :
    timingAfter t (burst b bs) = .data := by
  simp [burst, timingAfter_append, timingAfter]

/-- A burst leaves the line receiving. -/
@[simp] theorem dirAfter_burst (d : Dir) (b : Timing) (bs : List Byte) :
    dirAfter d (burst b bs) = .rx := by
  simp [burst, dirAfter_append, dirAfter]

theorem State.emit_emit (s : State) (xs ys : List Action) :
    (s.emit xs).emit ys = s.emit (xs ++ ys) := by
  simp [State.emit, timingAfter_append, dirAfter_append]

@[simp] theorem State.peek_emit (s : State) (as : List Action) (j : Nat) :
    (s.emit as).peek j = s.peek j := rfl

@[simp] theorem State.peekBytes_emit (s : State) (as : List Action) (k n : Nat) :
    (s.emit as).peekBytes k n = s.peekBytes k n := rfl

/-! ### Writes and the rest of the memory -/

/-- The active buffer is contiguous. -/
theorem State.actAddr_eq (s : State) (k : Nat) : s.actAddr k = s.actAddr 0 + k := by
  rw [← State.actAddr_add, Nat.zero_add]

theorem State.read_poke_outside {s : State} {k a : Nat} (v : Byte) (h : a ≠ s.actAddr k) :
    (s.poke k v).mem.read a = s.mem.read a := by
  rw [State.poke_mem, Memory.read_write_other _ _ h]

theorem State.read_pokeBytes_outside {s : State} {k a : Nat} {bs : List Byte}
    (h : a < s.actAddr k ∨ s.actAddr (k + bs.length) ≤ a) :
    (s.pokeBytes k bs).mem.read a = s.mem.read a := by
  rw [State.actAddr_add] at h
  rw [State.pokeBytes_mem, Memory.read_writeBytes_outside]
  omega

/-- What `pokeBytes` writes is read back. -/
theorem State.peekBytes_pokeBytes_same (s : State) (k : Nat) (bs : List Byte) :
    (s.pokeBytes k bs).peekBytes k bs.length = bs := by
  apply State.peekBytes_eq
  intro j hj
  rw [State.peek_pokeBytes, if_pos (by omega)]
  simp

/-! ### The steps of the Response Builder -/

/-- The response timer writes no memory. -/
@[simp] theorem peek_waitMinGap (s : State) (j : Nat) : (waitMinGap s).peek j = s.peek j := by
  unfold waitMinGap; split <;> rfl

/-- The response timer emits at most the wait and does nothing else. -/
theorem waitMinGap_eq (s : State) : waitMinGap s = s.emit (timerActions s) := by
  unfold waitMinGap timerActions
  split
  · rfl
  · simp [State.emit, timingAfter, dirAfter]

/-- What the response-type step leaves at each offset. -/
theorem peek_setResponseType (kind : ReplyKind) (s : State) (j : Nat) :
    (setResponseType kind s).peek j =
      match kind with
      | .ack => if j = 15 then s.cfg.proto.rtAck else s.peek j
      | .nack reason =>
        if j = 22 then 2 else if j = 23 then hi8 reason else if j = 24 then lo8 reason
        else if j = 15 then s.cfg.proto.rtNack else s.peek j := by
  cases kind <;> simp [setResponseType, State.peek_poke, State.peek_poke16]

theorem peek_setLength (s : State) (j : Nat) :
    (setLength s).peek j = if j = 1 then s.peek 22 + 24 else s.peek j := by
  simp only [setLength, State.peek_poke]; rfl

/-- What the addressing step leaves at each offset: the request's source is read before the
device's own id overwrites it. -/
theorem peek_swapAddresses (s : State) (j : Nat) :
    (swapAddresses s).peek j =
      if 8 ≤ j ∧ j < 14 then (idBytes s.cfg.uid).getD (j - 8) 0
      else if 2 ≤ j ∧ j < 8 then s.peek (j + 6) else s.peek j := by
  unfold swapAddresses
  simp only [State.peek_pokeBytes, State.peekBytes_length, idBytes, List.length_cons,
    List.length_nil]
  split
  · rfl
  · split
    · rename_i h1 h2
      rw [List.getD_eq_getElem _ _ (by simp; omega), State.peekBytes_getElem,
        show 8 + (j - 2) = j + 6 by omega]
    · rfl

theorem peek_bumpCommandClass (s : State) (j : Nat) :
    (bumpCommandClass s).peek j = if j = 19 then s.peek 19 + 1 else s.peek j := by
  simp [bumpCommandClass, State.peek_poke]

/-- What the checksum step leaves at each offset: nothing but the two bytes behind the counted ones
changes. -/
theorem peek_appendChecksum (s : State) (j : Nat) :
    (appendChecksum s).peek j =
      let len := (s.peek 1).toNat
      let cs := checksum16 (s.peekBytes 0 (len - 1))
      if j = len - 1 then hi8 cs else if j = len - 1 + 1 then lo8 cs else s.peek j := by
  simp only [appendChecksum, State.peek_poke16]

@[simp] theorem peek_transmitResponse (s : State) (j : Nat) :
    (transmitResponse s).peek j = s.peek j := rfl

/-- The message after steps 2 to 5, before the checksum. -/
def header (kind : ReplyKind) (s : State) : State :=
  bumpCommandClass (swapAddresses (setLength (setResponseType kind s)))

/-- The builder: the wait, the header, the checksum, the transmission. -/
theorem build_eq (kind : ReplyKind) (s : State) :
    build kind s = transmitResponse (appendChecksum (header kind (s.emit (timerActions s)))) := by
  unfold build header
  rw [waitMinGap_eq]

theorem State.poke_emit (s : State) (as : List Action) (k : Nat) (v : Byte) :
    (s.emit as).poke k v = (s.poke k v).emit as := rfl

theorem State.pokeBytes_emit (s : State) (as : List Action) (k : Nat) (bs : List Byte) :
    (s.emit as).pokeBytes k bs = (s.pokeBytes k bs).emit as := rfl

theorem State.poke16_emit (s : State) (as : List Action) (k : Nat) (v : Word16) :
    (s.emit as).poke16 k v = (s.poke16 k v).emit as := rfl

/-- Emitting first and rewriting the header then is rewriting first. -/
theorem header_emit (kind : ReplyKind) (s : State) (as : List Action) :
    header kind (s.emit as) = (header kind s).emit as := by
  cases kind <;>
    simp only [header, setResponseType, setLength, swapAddresses, bumpCommandClass,
      State.poke_emit, State.poke16_emit, State.pokeBytes_emit, State.peek_emit,
      State.peekBytes_emit, State.emit_cfg]

theorem appendChecksum_emit (s : State) (as : List Action) :
    appendChecksum (s.emit as) = (appendChecksum s).emit as := by
  simp only [appendChecksum, State.poke16_emit, State.peek_emit, State.peekBytes_emit]

/-- The builder in one line: the memory of header and checksum, then the wait and the burst. -/
theorem build_emit (kind : ReplyKind) (s : State) :
    build kind s = (appendChecksum (header kind s)).emit (timerActions s ++
      burst .rdmBrk (Config.scRdm :: (appendChecksum (header kind s)).peekBytes 0
        (((appendChecksum (header kind s)).peek 1).toNat + 1))) := by
  rw [build_eq, header_emit, appendChecksum_emit, transmitResponse, State.emit_emit,
    State.peekBytes_emit, State.peek_emit]

/-- `t` is `s` but for the memory. -/
def OnlyMemory (s t : State) : Prop := t = { s with mem := t.mem }

theorem OnlyMemory.refl (s : State) : OnlyMemory s s := rfl

theorem OnlyMemory.trans {s t u : State} (h : OnlyMemory s t) (k : OnlyMemory t u) :
    OnlyMemory s u := by
  unfold OnlyMemory at *
  rw [k, h]

theorem OnlyMemory.poke {s t : State} (h : OnlyMemory s t) (k : Nat) (v : Byte) :
    OnlyMemory s (t.poke k v) := h.trans rfl

theorem OnlyMemory.pokeBytes {s t : State} (h : OnlyMemory s t) (k : Nat) (bs : List Byte) :
    OnlyMemory s (t.pokeBytes k bs) := h.trans rfl

theorem OnlyMemory.poke16 {s t : State} (h : OnlyMemory s t) (k : Nat) (v : Word16) :
    OnlyMemory s (t.poke16 k v) := h.trans rfl

/-- The builder's header rewrite and checksum write memory alone. -/
theorem header_onlyMemory (kind : ReplyKind) (s : State) : OnlyMemory s (header kind s) := by
  have h : OnlyMemory s (setResponseType kind s) := by
    cases kind
    · exact (OnlyMemory.refl s).poke _ _
    · exact (((OnlyMemory.refl s).poke _ _).poke16 _ _).poke _ _
  exact (((h.poke _ _).pokeBytes _ _).pokeBytes _ _).poke _ _

theorem appendChecksum_onlyMemory (s : State) : OnlyMemory s (appendChecksum s) :=
  (OnlyMemory.refl s).poke16 _ _

/-- The builder writes memory and emits; nothing else changes but the line state it leaves. -/
theorem build_rest (kind : ReplyKind) (s : State) :
    build kind s = { s with
      mem := (build kind s).mem
      out := (build kind s).out
      lineTiming := .data
      lineDir := .rx } := by
  rw [build_emit]
  have h := (header_onlyMemory kind s).trans (appendChecksum_onlyMemory _)
  revert h
  generalize appendChecksum (header kind s) = t
  intro h
  rw [h]
  simp [State.emit, timingAfter_append, dirAfter_append]

/-- What the header holds at each offset. -/
theorem peek_header (kind : ReplyKind) (s : State) (j : Nat) :
    (header kind s).peek j =
      let t := setResponseType kind s
      if j = 19 then s.peek 19 + 1
      else if 8 ≤ j ∧ j < 14 then (idBytes s.cfg.uid).getD (j - 8) 0
      else if 2 ≤ j ∧ j < 8 then s.peek (j + 6)
      else if j = 1 then t.peek 22 + 24 else t.peek j := by
  have hcfg : (setLength (setResponseType kind s)).cfg = s.cfg := by cases kind <;> rfl
  simp only [header, peek_bumpCommandClass, peek_swapAddresses, peek_setLength, hcfg]
  by_cases h19 : j = 19
  · subst h19; cases kind <;> simp [peek_setResponseType]
  · simp only [h19, if_false]
    split
    · rfl
    · split
      · rw [if_neg (by omega)]
        cases kind
        · simp only [peek_setResponseType]; rw [if_neg (by omega)]
        · simp only [peek_setResponseType]
          rw [if_neg (by omega), if_neg (by omega), if_neg (by omega), if_neg (by omega)]
      · rfl

end Sys2Proof.Machine
end

