-- ==== Sys2Proof/Laws/Receive.lean ====
section
/-! SUPPORT. What the byte-receive path, the drain and the finalisation can do, each said once. -/

namespace Sys2Proof.Machine

/-! ### RXBYTE -/

/-- Where the first byte after a break leads (R106). -/
def fsmAfterStartCode (b : Byte) : Fsm :=
  if b = Config.scDmx then .dmxRecv else if b = Config.scRdm then .rdmRecv else .idle

/-- Where a received frame ends that fills the buffer (R131). -/
def fsmWhenFull : Fsm → Fsm
  | .dmxRecv => .dmxComplete
  | .idle | .brk | .rdmRecv | .dmxComplete | .dmxTx => .idle

theorem rxByte_start {s : State} (b : Byte) (hm : s.mode = .input) (hf : s.fsm = .brk) :
    rxByte b s = .next { s with rxq := s.rxq.tail, fsm := fsmAfterStartCode b } := by
  cases s
  simp only at hm hf
  subst hm hf
  unfold rxByte startCodeOf fsmAfterStartCode
  by_cases h1 : b = Config.scDmx
  · simp only [h1, if_true]; rfl
  · by_cases h2 : b = Config.scRdm
    · simp only [h2, if_true]; rfl
    · simp only [h1, h2, if_false]; rfl

theorem rxByte_store {s : State} (b : Byte) (hm : s.mode = .input)
    (hf : s.fsm = .dmxRecv ∨ s.fsm = .rdmRecv) (hi : s.idx < 512) :
    rxByte b s = .next { s.poke s.idx b with
      rxq := s.rxq.tail
      idx := s.idx + 1
      fsm := if s.idx + 1 = 512 then fsmWhenFull s.fsm else s.fsm } := by
  cases s
  simp only at hm hf hi
  subst hm
  rcases hf with rfl | rfl <;> simp only [rxByte, storeAtIdx, hi, if_true, andThen_next, fsmWhenFull]
  all_goals split <;> rfl

theorem rxByte_fault {s : State} (b : Byte) (hm : s.mode = .input)
    (hf : s.fsm = .dmxRecv ∨ s.fsm = .rdmRecv) (hi : 512 ≤ s.idx) :
    rxByte b s = .fault (.frameMemoryRange s.idx) := by
  cases s
  simp only at hm hf hi
  subst hm
  rcases hf with rfl | rfl <;>
    simp [rxByte, storeAtIdx, Nat.not_lt.mpr hi]

theorem rxByte_drop {s : State} (b : Byte)
    (h : s.mode ≠ .input ∨ (s.fsm ≠ .brk ∧ s.fsm ≠ .dmxRecv ∧ s.fsm ≠ .rdmRecv)) :
    rxByte b s = .next { s with rxq := s.rxq.tail } := by
  cases s
  rename_i mem act fsm idx mode _ _ _ _ _ _ _ _ _ _ _ _ _ _ _ _ _ _
  unfold rxByte
  cases mode <;> cases fsm <;> simp_all

/-- What a received byte can do: the queue loses its head; memory, index and sequencer move; nothing
else changes. -/
theorem rxByte_eq_next {b : Byte} {s t : State} (h : rxByte b s = .next t) :
    t = { s with mem := t.mem, rxq := s.rxq.tail, idx := t.idx, fsm := t.fsm } ∧
    (∀ a, (∀ k, k < 512 → a ≠ s.actAddr k) → t.mem.read a = s.mem.read a) := by
  by_cases hm : s.mode = .input
  · by_cases hb : s.fsm = .brk
    · rw [rxByte_start b hm hb] at h; cases h; exact ⟨rfl, fun _ _ => rfl⟩
    · by_cases hr : s.fsm = .dmxRecv ∨ s.fsm = .rdmRecv
      · by_cases hi : s.idx < 512
        · rw [rxByte_store b hm hr hi] at h
          cases h
          exact ⟨rfl, fun a ha => Memory.read_write_other _ _ (ha _ hi)⟩
        · rw [rxByte_fault b hm hr (by omega)] at h; cases h
      · rw [rxByte_drop b (by simp only [not_or] at hr; exact .inr ⟨hb, hr⟩)] at h
        cases h; exact ⟨rfl, fun _ _ => rfl⟩
  · rw [rxByte_drop b (.inl hm)] at h; cases h; exact ⟨rfl, fun _ _ => rfl⟩

/-! ### Drain -/

@[simp] theorem rxBytes_nil (s : State) : rxBytes [] s = .next s := rfl
@[simp] theorem rxBytes_cons (b : Byte) (bs : List Byte) (s : State) :
    rxBytes (b :: bs) s = andThen (rxByte b s) (rxBytes bs) := rfl

theorem rxBytes_append (xs ys : List Byte) (s : State) :
    rxBytes (xs ++ ys) s = andThen (rxBytes xs s) (rxBytes ys) := by
  induction xs generalizing s with
  | nil => rfl
  | cons x xs ih =>
    simp only [List.cons_append, rxBytes_cons, andThen_assoc]
    congr 1
    funext t
    exact ih t

/-- What received bytes can do: the queue loses as many; memory, index and sequencer move; nothing
else changes. -/
theorem rxBytes_eq_next {bs : List Byte} {s t : State} (h : rxBytes bs s = .next t) :
    t = { s with mem := t.mem, rxq := s.rxq.drop bs.length, idx := t.idx, fsm := t.fsm } ∧
    (∀ a, (∀ k, k < 512 → a ≠ s.actAddr k) → t.mem.read a = s.mem.read a) := by
  induction bs generalizing s with
  | nil => cases h; exact ⟨rfl, fun _ _ => rfl⟩
  | cons b bs ih =>
    obtain ⟨u, h1, h2⟩ := andThen_eq_next.mp h
    obtain ⟨e1, f1⟩ := rxByte_eq_next h1
    obtain ⟨e2, f2⟩ := ih h2
    have hact : ∀ k, u.actAddr k = s.actAddr k := by intro k; rw [e1]; rfl
    refine ⟨?_, fun a ha => ?_⟩
    · rw [e2, e1]; simp [List.drop_tail]
    · rw [f2 a (by intro k hk; rw [hact]; exact ha k hk), f1 a ha]

/-- Bytes inside a frame that leave room are stored in order. -/
theorem rxBytes_store {s : State} (bs : List Byte) (hm : s.mode = .input)
    (hf : s.fsm = .dmxRecv ∨ s.fsm = .rdmRecv) (hi : s.idx + bs.length < 512) :
    rxBytes bs s = .next { s.pokeBytes s.idx bs with
      rxq := s.rxq.drop bs.length
      idx := s.idx + bs.length } := by
  induction bs generalizing s with
  | nil => rfl
  | cons b bs ih =>
    simp only [List.length_cons] at hi
    rw [rxBytes_cons, rxByte_store b hm hf (by omega), andThen_next, if_neg (by omega),
      ih (by exact hm) (by exact hf) (by simp only; omega)]
    simp only [State.pokeBytes, State.poke, State.actAddr, Memory.writeBytes, List.length_cons,
      List.drop_tail, Nat.add_assoc, Nat.add_comm 1]

/-- Bytes inside a frame that do not overrun the buffer are stored in order; the frame ends with the
byte that fills the buffer. -/
theorem rxBytes_frame {s : State} {bs : List Byte} (hm : s.mode = .input)
    (hf : s.fsm = .dmxRecv ∨ s.fsm = .rdmRecv) (hi : s.idx + bs.length ≤ 512)
    (h0 : 0 < bs.length) :
    rxBytes bs s = .next { s.pokeBytes s.idx bs with
      rxq := s.rxq.drop bs.length
      idx := s.idx + bs.length
      fsm := if s.idx + bs.length = 512 then fsmWhenFull s.fsm else s.fsm } := by
  have hd : bs = bs.dropLast ++ [bs.getLast (List.ne_nil_of_length_pos h0)] :=
    (List.dropLast_append_getLast _).symm
  generalize bs.dropLast = xs at *
  generalize bs.getLast _ = x at *
  subst hd
  simp only [List.length_append, List.length_cons, List.length_nil] at hi ⊢
  rw [rxBytes_append, rxBytes_store xs hm hf (by omega), andThen_next, rxBytes_cons,
    rxByte_store x (by exact hm) (by exact hf) (by show s.idx + xs.length < 512; omega),
    andThen_next, rxBytes_nil]
  simp only [State.pokeBytes, State.poke, State.actAddr, Memory.writeBytes_append,
    Memory.writeBytes, List.tail_drop, Nat.add_assoc, Nat.zero_add]

/-- Bytes that nothing listens for are only taken from the queue. -/
theorem rxBytes_drop {s : State} (bs : List Byte)
    (h : s.mode ≠ .input ∨ (s.fsm ≠ .brk ∧ s.fsm ≠ .dmxRecv ∧ s.fsm ≠ .rdmRecv)) :
    rxBytes bs s = .next { s with rxq := s.rxq.drop bs.length } := by
  induction bs generalizing s with
  | nil => rfl
  | cons b bs ih =>
    rw [rxBytes_cons, rxByte_drop b h, andThen_next, ih (by exact h)]
    simp [List.drop_tail]

/-! ### The interrupt suppression is invisible to the byte-receive path -/

/-- Apply a function to the next state, if there is one. -/
def mapNext (f : State → State) : Result → Result
  | .next s => .next (f s)
  | .fault e => .fault e
  | .refused e => .refused e

theorem andThen_mapNext (f : State → State) (r : Result) (k : State → Result) :
    andThen (mapNext f r) k = andThen r fun s => k (f s) := by
  cases r <;> rfl

theorem mapNext_andThen (f : State → State) (r : Result) (k : State → Result) :
    mapNext f (andThen r k) = andThen r fun s => mapNext f (k s) := by
  cases r <;> rfl

theorem rxByte_enterFinalisation (b : Byte) (s : State) :
    rxByte b (enterFinalisation s) = mapNext enterFinalisation (rxByte b s) := by
  by_cases hm : s.mode = .input
  · by_cases hb : s.fsm = .brk
    · rw [rxByte_start b hm hb, rxByte_start b (by exact hm) (by exact hb)]; rfl
    · by_cases hr : s.fsm = .dmxRecv ∨ s.fsm = .rdmRecv
      · by_cases hi : s.idx < 512
        · rw [rxByte_store b hm hr hi, rxByte_store b (by exact hm) (by exact hr) (by exact hi)]
          rfl
        · rw [rxByte_fault b hm hr (by omega),
            rxByte_fault b (by exact hm) (by exact hr) (by simp only [enterFinalisation_idx]; omega)]
          rfl
      · have hd : s.mode ≠ .input ∨ (s.fsm ≠ .brk ∧ s.fsm ≠ .dmxRecv ∧ s.fsm ≠ .rdmRecv) := by
          simp only [not_or] at hr; exact .inr ⟨hb, hr⟩
        rw [rxByte_drop b hd, rxByte_drop b (by exact hd)]; rfl
  · rw [rxByte_drop b (.inl hm), rxByte_drop b (.inl (by exact hm))]; rfl

theorem rxBytes_enterFinalisation (bs : List Byte) (s : State) :
    rxBytes bs (enterFinalisation s) = mapNext enterFinalisation (rxBytes bs s) := by
  induction bs generalizing s with
  | nil => rfl
  | cons b bs ih =>
    simp only [rxBytes_cons, rxByte_enterFinalisation, andThen_mapNext, mapNext_andThen, ih]

/-! ### The finalisation -/

/-- Bytes delivered while a dispatch runs reach nothing (R143). -/
theorem deliverDuring_idle {s : State} (bs : List Byte) (hf : s.fsm = .idle) (hq : s.rxq = []) :
    deliverDuring bs s = .next s := by
  induction bs with
  | nil => rfl
  | cons b bs ih =>
    have h : rxByte b { s with rxq := s.rxq ++ [b] } = .next s := by
      rw [rxByte_drop b (.inr (by simp [hf]))]
      cases s
      simp_all
    simp only [deliverDuring, h, andThen_next, ih]

/-- A break in input mode: drain, finalise by what the sequencer then says, arm. -/
theorem breakDetected_input {s : State} (tDisp tResp : Nat) (during : List Byte)
    (hm : s.mode = .input) :
    breakDetected tDisp tResp during s =
      andThen (rxBytes s.rxq s) fun u =>
        andThen (finalise tDisp tResp during (enterFinalisation u)) fun v =>
          .next (leaveFinalisation v) := by
  unfold breakDetected drain
  rw [if_pos hm, enterFinalisation_rxq, rxBytes_enterFinalisation, andThen_mapNext]

end Sys2Proof.Machine
end

