-- ==== Sys2Proof/Laws/Commands.lean ====
section
/-! SUPPORT. What an RDM command can do, said once for all of them: which registers it may write,
which bytes of memory it may touch, and the ranges it keeps. -/

namespace Sys2Proof.Machine

/-- `t` is `s` after any number of writes to the first 256 bytes of the active buffer and to what
the commands may write (R305); label and start address stay in their ranges (R39). -/
structure Served (s t : State) : Prop where
  rest : t = { s with
    mem := t.mem
    rdmChangedFlag := t.rdmChangedFlag
    mute := t.mute
    identify := t.identify
    label := t.label
    startAddr := t.startAddr
    out := t.out
    lineTiming := t.lineTiming
    lineDir := t.lineDir }
  memory : ∀ a, a < s.actAddr 0 ∨ s.actAddr 256 ≤ a → t.mem.read a = s.mem.read a
  memWf : s.mem.wf = true → t.mem.wf = true
  label : s.label.length ≤ s.cfg.labelCap → t.label.length ≤ s.cfg.labelCap
  startAddr : t.startAddr = s.startAddr ∨
    s.cfg.collab.isSome = true ∧ 1 ≤ t.startAddr.toNat ∧ t.startAddr.toNat ≤ 512

namespace Served

theorem refl (s : State) : Served s s := ⟨rfl, fun _ _ => rfl, id, id, .inl rfl⟩

theorem act {s t : State} (h : Served s t) : t.act = s.act := by rw [h.rest]
theorem fsm {s t : State} (h : Served s t) : t.fsm = s.fsm := by rw [h.rest]
theorem idx {s t : State} (h : Served s t) : t.idx = s.idx := by rw [h.rest]
theorem mode {s t : State} (h : Served s t) : t.mode = s.mode := by rw [h.rest]
theorem rxq {s t : State} (h : Served s t) : t.rxq = s.rxq := by rw [h.rest]
theorem cfg {s t : State} (h : Served s t) : t.cfg = s.cfg := by rw [h.rest]

theorem trans {s t u : State} (h : Served s t) (k : Served t u) : Served s u := by
  have ha : ∀ j, t.actAddr j = s.actAddr j := by
    intro j; unfold State.actAddr; rw [h.act]
  refine ⟨?_, fun a hx => ?_, fun hw => k.memWf (h.memWf hw), fun hl => ?_, ?_⟩
  · rw [k.rest, h.rest]
  · rw [k.memory a (by rw [ha, ha]; exact hx), h.memory a hx]
  · have := k.label; rw [h.cfg] at this; exact this (h.label hl)
  · rcases k.startAddr with e | e
    · rw [e]; exact h.startAddr
    · right; rwa [h.cfg] at e

end Served

/-- A byte written among the first 256 of the active buffer. -/
theorem served_poke {s : State} {k : Nat} (v : Byte) (h : k < 256) : Served s (s.poke k v) := by
  refine ⟨rfl, fun a ha => ?_, fun hw => ?_, id, .inl rfl⟩
  · rw [s.actAddr_eq 256] at ha
    rw [State.poke_mem, Memory.read_write_other]
    rw [s.actAddr_eq k]; omega
  · exact Memory.wf_write v hw (s.actAddr_lt (by omega))

/-- Bytes written among the first 256 of the active buffer. -/
theorem served_pokeBytes {s : State} {k : Nat} {bs : List Byte} (h : k + bs.length ≤ 256) :
    Served s (s.pokeBytes k bs) := by
  refine ⟨rfl, fun a ha => ?_, fun hw => ?_, id, .inl rfl⟩
  · rw [s.actAddr_eq 256] at ha
    rw [State.pokeBytes_mem, Memory.read_writeBytes_outside]
    rw [s.actAddr_eq k]; omega
  · refine Memory.wf_writeBytes hw ?_
    have := s.act_lt
    unfold State.actAddr; omega

theorem served_emit (s : State) (as : List Action) : Served s (s.emit as) :=
  ⟨rfl, fun _ _ => rfl, id, id, .inl rfl⟩

/-- The Response Builder stays within the first 256 bytes, whatever the data length field says. -/
theorem served_build (kind : ReplyKind) (s : State) : Served s (build kind s) := by
  have h1 : Served s (waitMinGap s) := by rw [waitMinGap_eq]; exact served_emit _ _
  have h2 : ∀ s, Served s (setResponseType kind s) := by
    intro s
    cases kind with
    | ack => exact served_poke _ (by omega)
    | nack r =>
      exact ((served_poke _ (by omega)).trans (served_pokeBytes (by simp))).trans
        (served_poke _ (by omega))
  have h3 : ∀ s, Served s (setLength s) := fun s => served_poke _ (by omega)
  have h4 : ∀ s, Served s (swapAddresses s) := fun s =>
    (served_pokeBytes (by simp)).trans (served_pokeBytes (by simp [idBytes]))
  have h5 : ∀ s, Served s (bumpCommandClass s) := fun s => served_poke _ (by omega)
  have h6 : ∀ s, Served s (appendChecksum s) := fun s => by
    have := (s.peek 1).isLt
    exact served_pokeBytes (by simp only [List.length_cons, List.length_nil]; omega)
  have h7 : ∀ s, Served s (transmitResponse s) := fun s => served_emit _ _
  exact (((((h1.trans (h2 _)).trans (h3 _)).trans (h4 _)).trans (h5 _)).trans (h6 _)).trans (h7 _)

theorem served_ackWith {data : List Byte} {s : State} (h : data.length ≤ 231) :
    Served s (ackWith data s) :=
  ((served_pokeBytes (by omega)).trans (served_poke _ (by omega))).trans (served_build _ _)

theorem served_raiseNack (reason : Word16) (s : State) : Served s (raiseNack reason s) :=
  served_build _ _

/-- `Validate` either answers a NACK or leaves the state to its continuation. -/
theorem served_validate {ok : Byte → Bool} {k : State → State} {s : State}
    (h : ok s.pdl = true → s.subDevice = 0 → Served s (k s)) : Served s (validate ok k s) := by
  unfold validate checkFormat checkSubDevice
  by_cases hp : ok s.pdl = true <;> by_cases h0 : s.subDevice = 0 <;>
    simp only [hp, h0, if_true, if_false] <;> split <;>
    first
      | exact served_raiseNack _ _
      | exact h hp h0

/-- `Validate` passes a request of an accepted length for sub-device 0 on. -/
theorem validate_ok {ok : Byte → Bool} {k : State → State} {s : State} (h : ok s.pdl = true)
    (h0 : s.subDevice = 0) : validate ok k s = k s := by
  unfold validate checkFormat checkSubDevice
  split <;> simp [h, h0]

/-- `Validate` turns every other request away with a NACK. -/
theorem validate_nack {ok : Byte → Bool} (k : State → State) {s : State}
    (h : ok s.pdl = false ∨ s.subDevice ≠ 0) :
    ∃ reason, validate ok k s = raiseNack reason s := by
  unfold validate checkFormat checkSubDevice
  by_cases hp : ok s.pdl = true <;> by_cases h0 : s.subDevice = 0 <;>
    simp only [hp, h0, if_true, if_false] <;> split <;>
    first
      | exact ⟨_, rfl⟩
      | simp_all

/-- The builder raises no flag (R209). -/
theorem build_rdmChangedFlag (kind : ReplyKind) (s : State) :
    (build kind s).rdmChangedFlag = s.rdmChangedFlag := by rw [build_rest]

theorem ackWith_rdmChangedFlag (data : List Byte) (s : State) :
    (ackWith data s).rdmChangedFlag = s.rdmChangedFlag := by
  unfold ackWith respondAck
  rw [build_rdmChangedFlag]
  rfl

/-- The bounds of R9 and R10 on what a GET answers with. -/
theorem sizesOk_bounds {s : State} (h : s.sizesOk = true) :
    s.cfg.labelCap ≤ 231 ∧ s.label.length ≤ 231 ∧ ∀ c, s.cfg.collab = some c →
      c.mfrLabel.length ≤ 231 ∧ c.modelDesc.length ≤ 231 ∧ c.swLabel.length ≤ 231 ∧
        c.extraPids.length ≤ 112 := by
  simp only [State.sizesOk, Params.sizesOk, Bool.and_eq_true, decide_eq_true_eq] at h
  obtain ⟨h, hl⟩ := h
  refine ⟨by omega, by omega, ?_⟩
  intro c hc
  rw [hc] at h
  simp only [Bool.and_eq_true, decide_eq_true_eq] at h
  omega

theorem flatMap_word16Bytes_length (ws : List Word16) :
    (ws.flatMap word16Bytes).length = 2 * ws.length := by
  induction ws with
  | nil => rfl
  | cons w ws ih => simp [word16Bytes, ih]; omega

/-- What each GET answers with fits the data field. -/
theorem get_lengths {s : State} (h : s.sizesOk = true) :
    s.label.length ≤ 231 ∧ (s.supportedPids.flatMap word16Bytes).length ≤ 231 ∧
    s.deviceInfo.length ≤ 231 ∧ (s.config (·.mfrLabel) []).length ≤ 231 ∧
    (s.config (·.modelDesc) []).length ≤ 231 ∧ (s.config (·.swLabel) []).length ≤ 231 := by
  obtain ⟨_, hl, hc⟩ := sizesOk_bounds h
  refine ⟨hl, ?_, by simp [State.deviceInfo, word16Bytes, word32Bytes], ?_, ?_, ?_⟩
  · rw [flatMap_word16Bytes_length]
    unfold State.supportedPids State.config
    split
    · have := hc _ ‹_›; simp; omega
    · simp
  all_goals
    unfold State.config
    split
    · have := hc _ ‹_›; simp only; omega
    · simp

/-- Every handler of the table stays within what a command may do. -/
theorem served_runHandler {s : State} (h : Handler) (hs : s.sizesOk = true) :
    Served s (runHandler h s) := by
  obtain ⟨hcap, _⟩ := sizesOk_bounds hs
  have hg := get_lengths hs
  have hset : ∀ (m : Bool), Served s (discSetMute m s) := by
    intro m
    unfold discSetMute raiseDrop
    split
    · exact Served.refl s
    · exact Served.trans (t := setMute m s) ⟨rfl, fun _ _ => rfl, id, id, .inl rfl⟩
        (served_ackWith (by simp))
  have hget : ∀ f : State → List Byte, (f s).length ≤ 231 → Served s (getHandler f s) :=
    fun f hf => served_validate fun _ _ => served_ackWith hf
  cases h <;> simp only [runHandler]
  case discUniqueBranch =>
    unfold discUniqueBranch raiseDrop rawSend
    split
    · exact Served.refl s
    · split
      · exact Served.refl s
      · split
        · have hl : (dubReply s.cfg.uid).length = 24 := by
            simp [dubReply, orMasked, idBytes, word16Bytes]
          exact (served_pokeBytes (by omega)).trans (served_emit _ _)
        · exact Served.refl s
  case discMute => exact hset true
  case discUnMute => exact hset false
  case getIdentifyDevice => exact hget _ (by simp)
  case getDeviceLabel => exact hget _ hg.1
  case getDmxStartAddress => exact hget _ (by simp [word16Bytes])
  case getSupportedParameters => exact hget _ hg.2.1
  case getDeviceInfo => exact hget _ hg.2.2.1
  case getManufacturerLabel => exact hget _ hg.2.2.2.1
  case getDeviceModelDescription => exact hget _ hg.2.2.2.2.1
  case getSoftwareVersionLabel => exact hget _ hg.2.2.2.2.2
  case setSupportedParameters => exact served_raiseNack _ _
  case setIdentifyDevice =>
    refine served_validate fun _ _ => ?_
    split
    · exact served_raiseNack _ _
    · exact Served.trans (t := raiseRdmChanged (setIdentify (decide (s.peek 23 = 1)) s))
        ⟨rfl, fun _ _ => rfl, id, id, .inl rfl⟩ (served_ackWith (by simp))
  case setDeviceLabel =>
    refine served_validate fun hp _ => ?_
    refine Served.trans (t := raiseRdmChanged { s with label := s.msgData })
      ⟨rfl, fun _ _ => rfl, id, fun _ => ?_, .inl rfl⟩ (served_ackWith (by simp))
    simpa [State.msgData] using hp
  case setDmxStartAddress =>
    refine served_validate fun _ _ => ?_
    split
    · exact served_raiseNack _ _
    · split
      · exact served_raiseNack _ _
      · rename_i hr hc
        refine Served.trans (t := raiseRdmChanged { s with startAddr := s.peek16 23 })
          ⟨rfl, fun _ _ => rfl, id, id, .inr ?_⟩ (served_ackWith (by simp))
        simp only [not_or] at hr
        have h0 : (s.peek16 23).toNat ≠ 0 := fun e => hr.1 (BitVec.eq_of_toNat_eq (by simpa using e))
        have h1 : ¬ 512 < (s.peek16 23).toNat := fun e => hr.2 (BitVec.lt_def.mpr (by simpa using e))
        refine ⟨?_, ?_, ?_⟩
        · cases hh : s.cfg.collab
          · rw [hh] at hc; exact absurd rfl hc
          · rfl
        · show 1 ≤ (s.peek16 23).toNat; omega
        · show (s.peek16 23).toNat ≤ 512; omega

/-- So does the command an RDM message selects. -/
theorem served_runCommand {s : State} (hs : s.sizesOk = true) : Served s (runCommand s) := by
  unfold runCommand
  split
  · exact served_runHandler _ hs
  · exact served_raiseNack _ _

/-- `exec` of a handler-table entry is that entry's behaviour, within the bounds. -/
theorem exec_handler (h : Handler) (s : State) :
    exec h.instr s = withinBounds (runHandler h) s := by
  cases h <;> rfl

/-- `exec` of the operation a message's key decodes to is the dispatcher's command. -/
theorem exec_selected (s : State) :
    exec (decodeRdmKey s.cfg s.commandClass s.paramId) s = withinBounds runCommand s := by
  unfold decodeRdmKey
  cases e : lookupHandler s.cfg s.commandClass s.paramId with
  | none =>
    show withinBounds (rdmNomatch s.commandClass s.paramId) s = _
    simp [withinBounds, runCommand, e]
  | some h =>
    show exec h.instr s = _
    rw [exec_handler]
    simp [withinBounds, runCommand, e]

/-- The arms of the finalisation that dispatch nothing. -/
theorem finalise_publish {s : State} (tDisp tResp : Nat) (during : List Byte)
    (h : s.fsm = .dmxRecv ∨ s.fsm = .dmxComplete) :
    finalise tDisp tResp during s = .next (publishFrame s) := by
  unfold finalise
  rcases h with h | h <;> simp only [h]

theorem finalise_idle {s : State} (tDisp tResp : Nat) (during : List Byte)
    (h : s.fsm = .idle ∨ s.fsm = .brk ∨ s.fsm = .dmxTx) :
    finalise tDisp tResp during s = .next s := by
  unfold finalise
  rcases h with h | h | h <;> simp only [h]

/-- The state in which a dispatch begins: `IDLE` forced, interrupts deliverable, the time sampled. -/
def dispatchState (tDisp tResp : Nat) (s : State) : State :=
  { s with
    fsm := .idle
    irqSuppress := false
    t0 := tDisp % 2 ^ s.cfg.timeW
    now := if s.accepted then tResp % 2 ^ s.cfg.timeW else tDisp % 2 ^ s.cfg.timeW }

/-- The dispatching arm: the selected command, or nothing for another destination; what arrives
meanwhile is dropped (R140, R143, R176). -/
theorem finalise_dispatch {s : State} (tDisp tResp : Nat) (during : List Byte)
    (hf : s.fsm = .rdmRecv) (hq : s.rxq = []) (hs : s.sizesOk = true) :
    finalise tDisp tResp during s = .next (enterFinalisation
      (if s.accepted then runCommand (dispatchState tDisp tResp s)
       else dispatchState tDisp tResp s)) := by
  unfold finalise finaliseRdm
  simp only [hf]
  rw [withinBounds_ok _ (by exact hs), andThen_next]
  have hd : rdmDispatch tDisp tResp { s with fsm := .idle, irqSuppress := false } =
      if s.accepted then runCommand (dispatchState tDisp tResp s)
      else dispatchState tDisp tResp s := by
    unfold rdmDispatch
    show (if s.accepted then _ else _) = _
    by_cases ha : s.accepted = true
    · rw [if_pos ha, if_pos ha]
      unfold dispatchState
      rw [if_pos ha]
      rfl
    · rw [if_neg ha, if_neg ha]
      unfold dispatchState
      rw [if_neg ha]
      rfl
  rw [hd]
  by_cases ha : s.accepted = true
  · rw [if_pos ha]
    have h := served_runCommand (s := dispatchState tDisp tResp s) (by exact hs)
    rw [deliverDuring_idle _ (by rw [h.fsm]; rfl) (by rw [h.rxq]; exact hq)]
    rfl
  · rw [if_neg ha, deliverDuring_idle _ rfl (by exact hq)]
    rfl

/-- Outside the spec's bounds the break that would dispatch is refused. -/
theorem finalise_refused {s : State} (tDisp tResp : Nat) (during : List Byte)
    (hf : s.fsm = .rdmRecv) (hs : s.sizesOk = false) :
    finalise tDisp tResp during s = .refused .parameterBounds := by
  unfold finalise finaliseRdm
  simp only [hf]
  rw [withinBounds_refused _ (by exact hs)]
  rfl

end Sys2Proof.Machine
end

