-- ==== Sys2Proof/Laws/Decode.lean ====
section
/-! SUPPORT. The handler table and the operand readers of the decoder: what each finds, and that it
reads back what the encoder writes. -/

namespace Sys2Proof

/-! ### The handler table -/

/-- The keys of the handler table are the fifteen of R107. -/
theorem handlerTable_keys (p : Params) : (handlerTable p).map (·.1) = p.rdmKeys := rfl

/-- Distinct protocol numbers make distinct keys (R35). -/
theorem rdmKeys_nodup {p : Params} (h : p.proto.distinct = true) : p.rdmKeys.Nodup := by
  simp only [Protocol.distinct, Bool.and_eq_true, decide_eq_true_eq] at h
  obtain ⟨⟨⟨hc, hp⟩, _⟩, _⟩ := h
  simp only [List.nodup_cons, List.mem_cons, List.not_mem_nil, or_false, not_or,
    not_false_eq_true, List.nodup_nil, and_true] at hc hp
  simp only [Params.rdmKeys, List.nodup_cons, List.mem_cons, List.not_mem_nil, or_false, not_or,
    Prod.mk.injEq, not_false_eq_true, List.nodup_nil, and_true]
  grind

/-- A match of the linear scan is an entry with that key. -/
theorem firstMatch_mem {cc : Byte} {pid : Word16} {h : Handler}
    {table : List ((Byte × Word16) × Handler)} (e : firstMatch cc pid table = some h) :
    ((cc, pid), h) ∈ table := by
  induction table with
  | nil => cases e
  | cons x xs ih =>
    obtain ⟨k, h'⟩ := x
    simp only [firstMatch] at e
    split at e
    · rename_i hk
      cases e
      subst hk
      simp
    · exact List.mem_cons_of_mem _ (ih e)

/-- The linear scan finds nothing exactly when no entry has the key. -/
theorem firstMatch_eq_none {cc : Byte} {pid : Word16} {table : List ((Byte × Word16) × Handler)} :
    firstMatch cc pid table = none ↔ (cc, pid) ∉ table.map (·.1) := by
  induction table with
  | nil => simp [firstMatch]
  | cons x xs ih =>
    obtain ⟨k, h⟩ := x
    simp only [firstMatch, List.map_cons, List.mem_cons, not_or]
    split
    · simp_all
    · rename_i hk
      rw [ih]
      exact ⟨fun h => ⟨fun e => hk e.symm, h⟩, And.right⟩

/-- With distinct keys the linear scan finds exactly the entries. -/
theorem firstMatch_eq_some {cc : Byte} {pid : Word16} {h : Handler}
    {table : List ((Byte × Word16) × Handler)} (hn : (table.map (·.1)).Nodup) :
    firstMatch cc pid table = some h ↔ ((cc, pid), h) ∈ table := by
  refine ⟨firstMatch_mem, fun hm => ?_⟩
  induction table with
  | nil => cases hm
  | cons x xs ih =>
    obtain ⟨k, h'⟩ := x
    simp only [List.map_cons, List.nodup_cons] at hn
    simp only [List.mem_cons, Prod.mk.injEq] at hm
    simp only [firstMatch]
    rcases hm with ⟨rfl, rfl⟩ | hm
    · simp
    · have : k ≠ (cc, pid) := fun e => hn.1 (e ▸ List.mem_map_of_mem (f := (·.1)) hm)
      rw [if_neg this, ih hn.2 hm]

/-- The key of an entry decodes to that entry's operation. -/
theorem decodeRdmKey_entry {p : Params} {cc : Byte} {pid : Word16} {h : Handler}
    (hd : p.proto.distinct = true) (hm : ((cc, pid), h) ∈ handlerTable p) :
    decodeRdmKey p cc pid = h.instr := by
  have hl : lookupHandler p cc pid = some h :=
    (firstMatch_eq_some (by rw [handlerTable_keys]; exact rdmKeys_nodup hd)).mpr hm
  simp [decodeRdmKey, hl]

/-! ### The operand readers -/

theorem two_pow_timeW_le (p : Params) : 2 ^ p.timeW ≤ 256 ^ p.timeBytes := by
  rw [show 256 = 2 ^ 8 from rfl, ← Nat.pow_mul]
  exact Nat.pow_le_pow_right (by omega) (by unfold Params.timeBytes; omega)

theorem takeNat_bytesOfNat {n v : Nat} (rest : List Byte) (h : v < 256 ^ n) :
    takeNat n (bytesOfNat n v ++ rest) = .ok (v, rest) := by
  simp [takeNat, takeBytes, natOfBytes_bytesOfNat, Nat.mod_eq_of_lt h]

theorem takeTime_bytesOfNat {p : Params} {v : Nat} (rest : List Byte) (h : v < 2 ^ p.timeW) :
    takeTime p (bytesOfNat p.timeBytes v ++ rest) = .ok (v, rest) := by
  simp [takeTime, takeNat_bytesOfNat rest (lt_of_lt_of_le h (two_pow_timeW_le p)), h]

theorem takeString_bytes {bs : List Byte} (rest : List Byte) (h : bs.length < 65536) :
    takeString (bytesOfNat 2 bs.length ++ (bs ++ rest)) = .ok (bs, rest) := by
  simp [takeString, takeNat_bytesOfNat (n := 2) _ h, takeBytes]

/-- What `takeBytes` gives is what it was given, cut in two. -/
theorem takeBytes_eq_ok {n : Nat} {bs v rest : List Byte} (h : takeBytes n bs = .ok (v, rest)) :
    v.length = n ∧ v ++ rest = bs := by
  unfold takeBytes at h
  split at h
  · cases h
  · cases h
    simp
    omega

theorem takeNat_eq_ok {n v : Nat} {bs rest : List Byte} (h : takeNat n bs = .ok (v, rest)) :
    bytesOfNat n v ++ rest = bs ∧ v < 256 ^ n := by
  unfold takeNat at h
  split at h
  · rename_i b r e
    cases h
    obtain ⟨rfl, h2⟩ := takeBytes_eq_ok e
    exact ⟨by rw [bytesOfNat_natOfBytes, h2], natOfBytes_lt b⟩
  · cases h

theorem takeTime_eq_ok {p : Params} {v : Nat} {bs rest : List Byte}
    (h : takeTime p bs = .ok (v, rest)) :
    bytesOfNat p.timeBytes v ++ rest = bs ∧ v < 2 ^ p.timeW := by
  unfold takeTime at h
  split at h
  · rename_i e
    split at h
    · rename_i hv
      cases h
      exact ⟨(takeNat_eq_ok e).1, hv⟩
    · cases h
  · cases h

theorem takeString_eq_ok {bs v rest : List Byte} (h : takeString bs = .ok (v, rest)) :
    bytesOfNat 2 v.length ++ (v ++ rest) = bs ∧ v.length < 65536 := by
  unfold takeString at h
  split at h
  · rename_i e
    obtain ⟨h1, h2⟩ := takeNat_eq_ok e
    obtain ⟨rfl, h4⟩ := takeBytes_eq_ok h
    rw [h4]
    exact ⟨h1, h2⟩
  · cases h

end Sys2Proof
end

