-- ==== Sys2Proof/Laws/Exec.lean ====
section
/-! SUPPORT. What an operation can do when it goes on, one lemma per group of operations, for the
statements about all of them. -/

namespace Sys2Proof.Machine

/-- An operation of the handler table, or the answer to an unknown key. -/
theorem exec_rdmMsg {s t : State} {i : Instr} (hi : i.space = .rdmMsg)
    (h : exec i s = .next t) : s.sizesOk = true ∧ Served s t := by
  have hh : ∀ k : Handler, exec k.instr s = .next t → s.sizesOk = true ∧ Served s t := by
    intro k hk
    rw [exec_handler] at hk
    obtain ⟨hs, rfl⟩ := withinBounds_eq_next.mp hk
    exact ⟨hs, served_runHandler k hs⟩
  cases i <;> try (cases hi; done)
  case rdmNomatch cc pid =>
    obtain ⟨hs, rfl⟩ := withinBounds_eq_next.mp (h : withinBounds _ s = _)
    exact ⟨hs, served_raiseNack _ _⟩
  case discUniqueBranch => exact hh .discUniqueBranch h
  case discMute => exact hh .discMute h
  case discUnMute => exact hh .discUnMute h
  case getIdentifyDevice => exact hh .getIdentifyDevice h
  case setIdentifyDevice => exact hh .setIdentifyDevice h
  case getDeviceLabel => exact hh .getDeviceLabel h
  case setDeviceLabel => exact hh .setDeviceLabel h
  case getDmxStartAddress => exact hh .getDmxStartAddress h
  case setDmxStartAddress => exact hh .setDmxStartAddress h
  case getSupportedParameters => exact hh .getSupportedParameters h
  case setSupportedParameters => exact hh .setSupportedParameters h
  case getDeviceInfo => exact hh .getDeviceInfo h
  case getManufacturerLabel => exact hh .getManufacturerLabel h
  case getDeviceModelDescription => exact hh .getDeviceModelDescription h
  case getSoftwareVersionLabel => exact hh .getSoftwareVersionLabel h

/-- A start code moves the sequencer alone. -/
theorem exec_startCode {s t : State} {i : Instr} (hi : i.space = .startCode)
    (h : exec i s = .next t) : t = { s with fsm := t.fsm } := by
  have ha : ∀ f, afterStartCode f s = { s with fsm := (afterStartCode f s).fsm } := by
    intro f
    unfold afterStartCode
    split <;> rfl
  cases i <;> try (cases hi; done)
  all_goals
    cases h
    exact ha _

/-- A break outside input mode does nothing. -/
theorem exec_brk_disarmed {s : State} (tDisp tResp : Nat) (during : List Byte)
    (hm : s.mode ≠ .input) : exec (.brk tDisp tResp during) s = .next s := by
  show breakDetected tDisp tResp during s = _
  unfold breakDetected
  rw [if_neg hm]

/-- A break in input mode: the queued bytes, then one of the arms of the finalisation. -/
theorem exec_brk_input {s t : State} {tDisp tResp : Nat} {during : List Byte}
    (hm : s.mode = .input) (h : exec (.brk tDisp tResp during) s = .next t) :
    ∃ u v, rxBytes s.rxq s = .next u ∧ u.rxq = [] ∧ t = leaveFinalisation v ∧
      ((u.fsm = .dmxRecv ∨ u.fsm = .dmxComplete) ∧ v = publishFrame (enterFinalisation u) ∨
       (u.fsm = .idle ∨ u.fsm = .brk ∨ u.fsm = .dmxTx) ∧ v = enterFinalisation u ∨
       u.fsm = .rdmRecv ∧ u.sizesOk = true ∧
        (u.accepted = true ∧
          v = enterFinalisation (runCommand (dispatchState tDisp tResp (enterFinalisation u))) ∨
         u.accepted = false ∧
          v = enterFinalisation (dispatchState tDisp tResp (enterFinalisation u)))) := by
  change breakDetected tDisp tResp during s = _ at h
  rw [breakDetected_input _ _ _ hm] at h
  obtain ⟨u, h1, h2⟩ := andThen_eq_next.mp h
  obtain ⟨v, h3, h4⟩ := andThen_eq_next.mp h2
  cases h4
  have hq : u.rxq = [] := by
    rw [(rxBytes_eq_next h1).1]
    simp
  refine ⟨u, v, h1, hq, rfl, ?_⟩
  by_cases hp : u.fsm = .dmxRecv ∨ u.fsm = .dmxComplete
  · rw [finalise_publish _ _ _ (by exact hp)] at h3
    cases h3
    exact .inl ⟨hp, rfl⟩
  · by_cases hr : u.fsm = .rdmRecv
    · cases hs : u.sizesOk
      · rw [finalise_refused _ _ _ (by exact hr) (by exact hs)] at h3
        cases h3
      · rw [finalise_dispatch _ _ _ (by exact hr) (by exact hq) (by exact hs)] at h3
        cases h3
        refine .inr (.inr ⟨hr, rfl, ?_⟩)
        cases ha : u.accepted
        · have hn : (enterFinalisation u).accepted ≠ true := fun e => Bool.noConfusion (ha.symm.trans e)
          exact .inr ⟨rfl, by rw [if_neg hn]⟩
        · exact .inl ⟨rfl, by rw [if_pos (show (enterFinalisation u).accepted = true from ha)]⟩
    · have hi : u.fsm = .idle ∨ u.fsm = .brk ∨ u.fsm = .dmxTx := by
        cases hf : u.fsm <;> simp_all
      rw [finalise_idle _ _ _ (by exact hi)] at h3
      cases h3
      exact .inr (.inl ⟨hi, rfl⟩)

/-- The pump sends and moves, or is disarmed. -/
theorem exec_txdone {s t : State} (h : exec .txdone s = .next t) :
    t = { s with out := t.out, lineTiming := t.lineTiming, fsm := t.fsm, idx := t.idx } ∧
    (s.mode ≠ .output → t = s) := by
  change execTxdone s = _ at h
  unfold execTxdone sendSlot at h
  by_cases hm : s.mode = .output
  · refine ⟨?_, fun hc => absurd hm hc⟩
    simp only [hm] at h
    cases hf : s.fsm <;> simp only [hf] at h
    case dmxTx =>
      split at h
      · cases h
        simp [sendBreak, State.emit, timingAfter, dirAfter]
      · split at h
        · cases h
          simp [State.emit, timingAfter, dirAfter]
        · cases h
    case brk =>
      cases h
      simp [sendStartCode, State.emit, timingAfter, dirAfter]
    all_goals
      cases h
      rfl
  · have ht : t = s := by
      revert h
      split
      · rintro ⟨⟩; rfl
      · rintro ⟨⟩; rfl
      · exact absurd ‹_› hm
    subst ht
    exact ⟨rfl, fun _ => rfl⟩

/-- `poll()` delivers what is queued, or does nothing. -/
theorem exec_poll {s t : State} (h : exec .poll s = .next t) :
    t = { s with mem := t.mem, rxq := t.rxq, idx := t.idx, fsm := t.fsm } ∧
    (∀ a, (∀ k, k < 512 → a ≠ s.actAddr k) → t.mem.read a = s.mem.read a) := by
  change execPoll s = _ at h
  unfold execPoll drain at h
  split at h
  · obtain ⟨e, hr⟩ := rxBytes_eq_next h
    exact ⟨by rw [e], hr⟩
  · cases h
    exact ⟨rfl, fun _ _ => rfl⟩

/-- `setChannels` writes the whole active buffer and nothing else. -/
theorem exec_setChannels {s t : State} {start n : Word16} {vs : List Byte}
    (h : exec (.setChannels start n vs) s = .next t) :
    ∃ bs : List Byte, bs.length = 512 ∧ t = s.pokeBytes 0 bs := by
  change execSetChannels _ _ _ _ = _ at h
  unfold execSetChannels at h
  split at h
  · injection h with h
    exact ⟨_, by simp [channelImage], h.symm⟩
  · cases h

/-- `setChannel` writes one byte of the active buffer, or nothing. -/
theorem exec_setChannel {s t : State} {a : Word16} {v : Byte}
    (h : exec (.setChannel a v) s = .next t) :
    t = s ∨ a.toNat < 512 ∧ t = s.poke a.toNat v := by
  change Host.Outcome.next (if a.toNat < Config.bufSize then _ else _) = _ at h
  split at h
  · rename_i ha
    cases h
    exact .inr ⟨ha, rfl⟩
  · cases h
    exact .inl rfl

/-- Delivering events one by one is delivering the bytes. -/
theorem execAll_rxbyte (bs : List Byte) (s : State) :
    execAll (bs.map .rxbyte) s = rxBytes bs s := by
  induction bs generalizing s with
  | nil => rfl
  | cons b bs ih =>
    simp only [List.map_cons, execAll, rxBytes]
    show andThen (rxByte b s) _ = _
    congr 1
    funext t
    exact ih t

theorem execAll_append (xs ys : List Instr) (s : State) :
    execAll (xs ++ ys) s = andThen (execAll xs s) (execAll ys) := by
  induction xs generalizing s with
  | nil => rfl
  | cons x xs ih =>
    simp only [List.cons_append, execAll, andThen_assoc]
    congr 1
    funext t
    exact ih t

/-- After a swap each buffer stands in the other's role. -/
theorem addresses_of_swap {s t : State} (h : t.act = 1 - s.act) (k : Nat) :
    t.inactAddr k = s.actAddr k ∧ t.actAddr k = s.inactAddr k := by
  have h2 := s.act_lt
  have ht : t.act.toNat = 1 - s.act.toNat := by
    rw [h]
    simp [BitVec.toNat_sub]
    omega
  unfold State.inactAddr State.actAddr
  have e : 1 - (1 - s.act.toNat) = s.act.toNat := by omega
  rw [ht, e]
  exact ⟨rfl, rfl⟩

end Sys2Proof.Machine
end

