-- ==== Sys2Proof/Laws/PerInstr.lean ====
section
/-! SUPPORT. Statements for all operations, one lemma per constructor of `Instr`. -/

namespace Sys2Proof.Laws

/-- The shape of an operation's encoding: one byte for a start code (R106), three for the key of an
RDM command (R107), a selector of R111 and its operands for an event. -/
def EncodedShape.Statement (i : Instr) : Prop :=
  ∀ p : Params, match i.space with
    | .startCode => (encode p i).length = 1
    | .rdmMsg => (encode p i).length = 3
    | .event => ∃ sel rest, encode p i = sel :: rest ∧ sel.toNat ≤ 0xC

theorem EncodedShape.scDmx : EncodedShape.Statement .scDmx :=
  fun _ => rfl

theorem EncodedShape.scRdm : EncodedShape.Statement .scRdm :=
  fun _ => rfl

theorem EncodedShape.scOther (s : Byte) : EncodedShape.Statement (.scOther s) :=
  fun _ => rfl

theorem EncodedShape.discUniqueBranch : EncodedShape.Statement .discUniqueBranch :=
  fun _ => rfl

theorem EncodedShape.discMute : EncodedShape.Statement .discMute :=
  fun _ => rfl

theorem EncodedShape.discUnMute : EncodedShape.Statement .discUnMute :=
  fun _ => rfl

theorem EncodedShape.getIdentifyDevice : EncodedShape.Statement .getIdentifyDevice :=
  fun _ => rfl

theorem EncodedShape.setIdentifyDevice : EncodedShape.Statement .setIdentifyDevice :=
  fun _ => rfl

theorem EncodedShape.getDeviceLabel : EncodedShape.Statement .getDeviceLabel :=
  fun _ => rfl

theorem EncodedShape.setDeviceLabel : EncodedShape.Statement .setDeviceLabel :=
  fun _ => rfl

theorem EncodedShape.getDmxStartAddress : EncodedShape.Statement .getDmxStartAddress :=
  fun _ => rfl

theorem EncodedShape.setDmxStartAddress : EncodedShape.Statement .setDmxStartAddress :=
  fun _ => rfl

theorem EncodedShape.getSupportedParameters : EncodedShape.Statement .getSupportedParameters :=
  fun _ => rfl

theorem EncodedShape.setSupportedParameters : EncodedShape.Statement .setSupportedParameters :=
  fun _ => rfl

theorem EncodedShape.getDeviceInfo : EncodedShape.Statement .getDeviceInfo :=
  fun _ => rfl

theorem EncodedShape.getManufacturerLabel : EncodedShape.Statement .getManufacturerLabel :=
  fun _ => rfl

theorem EncodedShape.getDeviceModelDescription : EncodedShape.Statement .getDeviceModelDescription :=
  fun _ => rfl

theorem EncodedShape.getSoftwareVersionLabel : EncodedShape.Statement .getSoftwareVersionLabel :=
  fun _ => rfl

theorem EncodedShape.rdmNomatch (cc : Byte) (pid : Word16) : EncodedShape.Statement (.rdmNomatch cc pid) :=
  fun _ => rfl

theorem EncodedShape.reset : EncodedShape.Statement .reset :=
  fun _ => ⟨_, _, rfl, by decide⟩

theorem EncodedShape.rxbyte (b : Byte) : EncodedShape.Statement (.rxbyte b) :=
  fun _ => ⟨_, _, rfl, by decide⟩

theorem EncodedShape.brk (tDisp tResp : Nat) (during : List Byte) : EncodedShape.Statement (.brk tDisp tResp during) :=
  fun _ => ⟨_, _, rfl, by decide⟩

theorem EncodedShape.txdone : EncodedShape.Statement .txdone :=
  fun _ => ⟨_, _, rfl, by decide⟩

theorem EncodedShape.setMode (m : Mode) : EncodedShape.Statement (.setMode m) :=
  fun _ => ⟨_, _, rfl, by decide⟩

theorem EncodedShape.setChannel (a : Word16) (v : Byte) : EncodedShape.Statement (.setChannel a v) :=
  fun _ => ⟨_, _, rfl, by decide⟩

theorem EncodedShape.setChannels (s n : Word16) (vs : List Byte) : EncodedShape.Statement (.setChannels s n vs) :=
  fun _ => ⟨_, _, rfl, by decide⟩

theorem EncodedShape.getBuffer : EncodedShape.Statement .getBuffer :=
  fun _ => ⟨_, _, rfl, by decide⟩

theorem EncodedShape.newFrame : EncodedShape.Statement .newFrame :=
  fun _ => ⟨_, _, rfl, by decide⟩

theorem EncodedShape.rdmChanged : EncodedShape.Statement .rdmChanged :=
  fun _ => ⟨_, _, rfl, by decide⟩

theorem EncodedShape.isIdentify : EncodedShape.Statement .isIdentify :=
  fun _ => ⟨_, _, rfl, by decide⟩

theorem EncodedShape.getLabel : EncodedShape.Statement .getLabel :=
  fun _ => ⟨_, _, rfl, by decide⟩

theorem EncodedShape.poll : EncodedShape.Statement .poll :=
  fun _ => ⟨_, _, rfl, by decide⟩

end Sys2Proof.Laws
end

