-- ==== Sys2Proof/Tests/Slice0.lean ====
section
/-! SUPPORT. Tests. Expected values come from spec/30_encoding.md (encodings) and from the vectors of
spec/95_test_vectors.md, named in each docstring (they were derived by hand from the rules); and for
every statement with hypotheses a theorem `witness_<statement>` that something meets them. -/

namespace Sys2Proof.Tests

-- One theorem at a time: many small kernel evaluations at once reach the limit on memory.
set_option Elab.async false

open Sys2Proof Sys2Proof.Machine

/-! ## Helpers -/

/-- One value of the next state; nothing when the answer is a stop. -/
def after {α : Type} (r : Result) (f : State → α) : Option α :=
  match r with
  | .next s => some (f s)
  | .fault _ => none
  | .refused _ => none

/-- An engine in input mode after `RESET`, the memory all 0xEE, with every register a plain value:
the start state of the spec's vectors. -/
def ready : State :=
  { State.resetWith Config.device (Memory.ofDraw (List.replicate 1024 0xEE)) 0 with
    mode := .input, t0 := 0, now := 200, lineTiming := .data, lineDir := .rx }

/-- The same without a configuration. -/
def bare : State := { ready with cfg := { Config.device with collab := none }, startAddr := 0 }

/-- The same with memory that reads 0. -/
def blank : State := { ready with mem := Memory.ofDraw [] }

/-- A received message in the active buffer, dispatched at time 0 and answered at time 200. -/
def holding (bytes : List Byte) (s : State) : State := s.pokeBytes 0 bytes

/-- A message still being received, its closing break to come. -/
def receiving (bytes : List Byte) (s : State) : State :=
  { holding bytes s with fsm := .rdmRecv, idx := bytes.length }

/-- The output list of a response line of the vectors (R257). -/
def responseLine (bytes : List Byte) : List Action :=
  [.dir .tx, .cfg .rdmBrk, .wr 0x00, .flush, .cfg .data, .wr 0xCC] ++ bytes.map .wr ++
    [.flush, .dir .rx]

/-- The output list of the discovery reply (R233). -/
def discoveryLine (bytes : List Byte) : List Action :=
  [.dir .tx, .cfg .discBrk, .wr 0x00, .flush, .cfg .data] ++ bytes.map .wr ++ [.flush, .dir .rx]

/-- A request of the vectors without its checksum, which the engine never reads (R181): from the
controller AB CD 00 00 00 01, transaction 05, port 01. -/
def request (dest : List Byte) (sub cc ph pl : Byte) (data : List Byte) : List Byte :=
  [0x01, BitVec.ofNat 8 (24 + data.length)] ++ dest ++
    [0xAB, 0xCD, 0x00, 0x00, 0x00, 0x01, 0x05, 0x01, 0x00, 0x00, sub, cc, ph, pl,
     BitVec.ofNat 8 data.length] ++ data

/-- The device's id. -/
def own : List Byte := [0x12, 0x34, 0x56, 0x78, 0x9A, 0xBC]

/-- All devices. -/
def everyone : List Byte := [0xFF, 0xFF, 0xFF, 0xFF, 0xFF, 0xFF]

/-! ## Well-formedness refuses ill-formed terms -/

theorem test_wf_refuses_dmx_code_as_other : WellFormed Config.device (.scOther 0x00) = false := by
  decide

theorem test_wf_refuses_rdm_code_as_other : WellFormed Config.device (.scOther 0xCC) = false := by
  decide

theorem test_wf_refuses_table_key_as_nomatch :
    WellFormed Config.device (.rdmNomatch 0x20 0x1000) = false := by decide

theorem test_wf_refuses_wide_dispatch_time :
    WellFormed Config.device (.brk 4294967296 0 []) = false := by decide +kernel

theorem test_wf_refuses_wide_response_time :
    WellFormed Config.device (.brk 0 4294967296 []) = false := by decide +kernel

theorem test_wf_refuses_long_string :
    WellFormed Config.device (.brk 0 0 (List.replicate 65536 0)) = false := by
  rw [WellFormed, List.length_replicate]
  decide +kernel

theorem test_wf_refuses_wrong_count :
    WellFormed Config.device (.setChannels 0 2 [1]) = false := by decide

theorem test_wf_accepts :
    WellFormed Config.device (.scOther 0x17) = true ∧
    WellFormed Config.device (.rdmNomatch 0x30 0x0060) = true ∧
    WellFormed Config.device (.brk 4294967295 0 [0x00]) = true ∧
    WellFormed Config.device (.setChannels 1 3 [0x0A, 0x0B, 0x0C]) = true := by decide +kernel

/-! ## Decoding: every row of the opcode map, from a word written out -/

/-- R106. -/
theorem test_decode_start_codes :
    decode Config.device .startCode [0x00] = .ok (.scDmx, []) ∧
    decode Config.device .startCode [0xCC] = .ok (.scRdm, []) ∧
    decode Config.device .startCode [0x17] = .ok (.scOther 0x17, []) ∧
    decode Config.device .startCode [0xFF] = .ok (.scOther 0xFF, []) := ⟨rfl, rfl, rfl, rfl⟩

/-- R107, discovery. -/
theorem test_decode_discovery_keys :
    decode Config.device .rdmMsg [0x10, 0x00, 0x01] = .ok (.discUniqueBranch, []) ∧
    decode Config.device .rdmMsg [0x10, 0x00, 0x02] = .ok (.discMute, []) ∧
    decode Config.device .rdmMsg [0x10, 0x00, 0x03] = .ok (.discUnMute, []) := ⟨rfl, rfl, rfl⟩

/-- R107, GET and SET of the registers. -/
theorem test_decode_register_keys :
    decode Config.device .rdmMsg [0x20, 0x10, 0x00] = .ok (.getIdentifyDevice, []) ∧
    decode Config.device .rdmMsg [0x30, 0x10, 0x00] = .ok (.setIdentifyDevice, []) ∧
    decode Config.device .rdmMsg [0x20, 0x00, 0x82] = .ok (.getDeviceLabel, []) ∧
    decode Config.device .rdmMsg [0x30, 0x00, 0x82] = .ok (.setDeviceLabel, []) ∧
    decode Config.device .rdmMsg [0x20, 0x00, 0xF0] = .ok (.getDmxStartAddress, []) ∧
    decode Config.device .rdmMsg [0x30, 0x00, 0xF0] = .ok (.setDmxStartAddress, []) :=
  ⟨rfl, rfl, rfl, rfl, rfl, rfl⟩

/-- R107, the other GET and SET keys. -/
theorem test_decode_other_keys :
    decode Config.device .rdmMsg [0x20, 0x00, 0x50] = .ok (.getSupportedParameters, []) ∧
    decode Config.device .rdmMsg [0x30, 0x00, 0x50] = .ok (.setSupportedParameters, []) ∧
    decode Config.device .rdmMsg [0x20, 0x00, 0x60] = .ok (.getDeviceInfo, []) ∧
    decode Config.device .rdmMsg [0x20, 0x00, 0x81] = .ok (.getManufacturerLabel, []) ∧
    decode Config.device .rdmMsg [0x20, 0x00, 0x80] = .ok (.getDeviceModelDescription, []) ∧
    decode Config.device .rdmMsg [0x20, 0x00, 0xC0] = .ok (.getSoftwareVersionLabel, []) :=
  ⟨rfl, rfl, rfl, rfl, rfl, rfl⟩

/-- R108: keys with no table entry, V-DSP-2, V-DSP-5, V-DSP-6, V-DSP-9. -/
theorem test_decode_nomatch :
    decode Config.device .rdmMsg [0x20, 0x00, 0xE0] = .ok (.rdmNomatch 0x20 0x00E0, []) ∧
    decode Config.device .rdmMsg [0xFF, 0x12, 0x34] = .ok (.rdmNomatch 0xFF 0x1234, []) ∧
    decode Config.device .rdmMsg [0x30, 0x00, 0x60] = .ok (.rdmNomatch 0x30 0x0060, []) ∧
    decode Config.device .rdmMsg [0x10, 0x10, 0x00] = .ok (.rdmNomatch 0x10 0x1000, []) :=
  ⟨rfl, rfl, rfl, rfl⟩

/-- R111, events without operands. -/
theorem test_decode_plain_events :
    decodePacket Config.device [0x0] = .ok .reset ∧
    decodePacket Config.device [0x3] = .ok .txdone ∧
    decodePacket Config.device [0x7] = .ok .getBuffer ∧
    decodePacket Config.device [0x8] = .ok .newFrame ∧
    decodePacket Config.device [0x9] = .ok .rdmChanged ∧
    decodePacket Config.device [0xA] = .ok .isIdentify ∧
    decodePacket Config.device [0xB] = .ok .getLabel ∧
    decodePacket Config.device [0xC] = .ok .poll :=
  ⟨rfl, rfl, rfl, rfl, rfl, rfl, rfl, rfl⟩

/-- R111, events with operands; the operand values are those of P3 and V-TMR-7. -/
theorem test_decode_events_with_operands :
    decodePacket Config.device [0x1, 0x7F] = .ok (.rxbyte 0x7F) ∧
    decodePacket Config.device
      [0x2, 0xFF, 0xFF, 0xFF, 0xF0, 0x00, 0x00, 0x00, 0x10, 0x00, 0x02, 0x00, 0x99] =
      .ok (.brk 4294967280 16 [0x00, 0x99]) ∧
    decodePacket Config.device [0x4, 0x2] = .ok (.setMode .output) ∧
    decodePacket Config.device [0x5, 0x01, 0xFF, 0x99] = .ok (.setChannel 511 0x99) ∧
    decodePacket Config.device [0x6, 0x00, 0x01, 0x00, 0x03, 0x0A, 0x0B, 0x0C] =
      .ok (.setChannels 1 3 [0x0A, 0x0B, 0x0C]) := ⟨rfl, rfl, rfl, rfl, rfl⟩

/-- U7, U8: a selector or a mode of none of the values, operands cut short, bytes left over. -/
theorem test_decode_refuses :
    decodePacket Config.device [] = .error .empty ∧
    decodePacket Config.device [0xD] = .error (.unknownSelector 0xD) ∧
    decodePacket Config.device [0x4, 0x3] = .error (.unknownMode 0x3) ∧
    decodePacket Config.device [0x5, 0x01, 0xFF] = .error .truncated ∧
    decodePacket Config.device [0x3, 0x00] = .error .trailing ∧
    decode Config.device .rdmMsg [0x20, 0x10] = .error .truncated := ⟨rfl, rfl, rfl, rfl, rfl, rfl⟩

/-- The words of the opcode table, as it numbers their bits. -/
theorem test_decode_table_words :
    decodeTableWord 8 0xCC = some .scRdm ∧
    decodeTableWord 24 0x100001 = some .discUniqueBranch ∧
    decodeTableWord 24 0x2000C0 = some .getSoftwareVersionLabel ∧
    decodeTableWord 4 0x0 = some .reset ∧ decodeTableWord 8 0x2 = some (.brk 0 0 []) ∧
    decodeTableWord 4 0xC = some .poll := ⟨rfl, rfl, rfl, rfl, rfl, rfl⟩

/-! ## Receive (R131, R132, R140) -/

/-- V-RX-1, V-RX-2, V-RX-3. -/
theorem test_start_codes :
    after (exec .scDmx { ready with fsm := .brk }) (·.fsm) = some .dmxRecv ∧
    after (exec .scRdm { ready with fsm := .brk }) (·.fsm) = some .rdmRecv ∧
    after (exec (.scOther 0x17) { ready with fsm := .brk }) (·.fsm) = some .idle ∧
    after (exec (.rxbyte 0xCC) { ready with fsm := .brk, rxq := [0xCC] })
      (fun t => (t.fsm, t.idx, t.rxq)) = some (.rdmRecv, 0, []) := by decide +kernel

/-- V-RX-4 and V-RX-6: the 512th byte is stored, then the state changes. -/
theorem test_rxbyte_at_511 :
    after (exec (.rxbyte 0x7F) { ready with fsm := .dmxRecv, idx := 511, rxq := [0x7F] })
      (fun t => (t.fsm, t.idx, t.peek 511)) = some (.dmxComplete, 512, 0x7F) ∧
    after (exec (.rxbyte 0xAB) { ready with fsm := .rdmRecv, idx := 511, rxq := [0xAB] })
      (fun t => (t.fsm, t.idx, t.peek 511)) = some (.idle, 512, 0xAB) := by decide +kernel

/-- V-RX-8 and V-RX-9: a start-code value inside a frame is data; output mode drops the byte. -/
theorem test_rxbyte_data_and_mode :
    after (exec (.rxbyte 0xCC) { ready with fsm := .dmxRecv, idx := 3, rxq := [0xCC] })
      (fun t => (t.fsm, t.idx, t.peek 3)) = some (.dmxRecv, 4, 0xCC) ∧
    after (exec (.rxbyte 0x00) { ready with mode := .output, fsm := .brk, rxq := [0x00] })
      (fun t => (t.fsm, t.rxq)) = some (.brk, []) := by decide +kernel

/-- V-BRK-7: drain, then the case test, then the swap. -/
theorem test_brk_drains_then_swaps :
    after (exec (.brk 0 0 []) { ready with
        fsm := .dmxRecv, idx := 510, rxq := [0xA1, 0xA2, 0xA3], frameCount := 4294967295 })
      (fun t => (t.fsm, t.idx, t.act, t.frameCount)) = some (.brk, 0, 1, 0) ∧
    after (exec (.brk 0 0 []) { ready with
        fsm := .dmxRecv, idx := 510, rxq := [0xA1, 0xA2, 0xA3] })
      (fun t => (t.newFrameFlag, t.rxq, t.mem.readBytes 509 4)) =
      some (true, [], [0xEE, 0xA1, 0xA2, 0xEE]) := by decide +kernel

/-! ## Transmit pump (R161) -/

/-- V-TX-1 and V-TX-3. -/
theorem test_txdone_start_code_and_slot :
    after (exec .txdone { ready with mode := .output, fsm := .brk })
      (fun t => (t.out, t.fsm, t.idx)) = some ([.cfg .data, .wr 0x00], .dmxTx, 0) ∧
    after (exec .txdone
        { holding [0x00, 0x0A] ready with mode := .output, fsm := .dmxTx, idx := 1 })
      (fun t => (t.out, t.fsm, t.idx)) = some ([.wr 0x0A], .dmxTx, 2) := by decide +kernel

/-- V-TX-5 and V-TX-6. -/
theorem test_txdone_break_and_mode :
    after (exec .txdone { ready with mode := .output, fsm := .dmxTx, idx := 512 })
      (fun t => (t.out, t.fsm, t.idx)) = some ([.cfg .brk, .wr 0x00], .brk, 0) ∧
    after (exec .txdone { ready with fsm := .brk }) (·.out) = some [] := by decide +kernel

/-! ## RDM commands -/

/-- V-DUB-2: bounds are inclusive. -/
theorem test_discUniqueBranch_inclusive :
    after (exec .discUniqueBranch (holding
      [0x01, 0x24, 0xFF, 0xFF, 0xFF, 0xFF, 0xFF, 0xFF, 0xAB, 0xCD, 0x00, 0x00, 0x00, 0x01, 0x29,
       0x01, 0x00, 0x00, 0x00, 0x10, 0x00, 0x01, 0x0C, 0x12, 0x34, 0x56, 0x78, 0x9A, 0xBC, 0x12,
       0x34, 0x56, 0x78, 0x9A, 0xBC, 0x0D, 0x7F]
      ready)) (·.out) = some (discoveryLine
      [0xFE, 0xFE, 0xFE, 0xFE, 0xFE, 0xFE, 0xFE, 0xAA, 0xBA, 0x57, 0xBE, 0x75, 0xFE, 0x57,
       0xFA, 0x7D, 0xBA, 0xDF, 0xBE, 0xFD, 0xAA, 0x5D, 0xEE, 0x75]) := by
  decide +kernel

/-- V-DUB-4: the upper bound is one below the id. -/
theorem test_discUniqueBranch_excluded :
    after (exec .discUniqueBranch (holding
      [0x01, 0x24, 0xFF, 0xFF, 0xFF, 0xFF, 0xFF, 0xFF, 0xAB, 0xCD, 0x00, 0x00, 0x00, 0x01, 0x2B,
       0x01, 0x00, 0x00, 0x00, 0x10, 0x00, 0x01, 0x0C, 0x00, 0x00, 0x00, 0x00, 0x00, 0x00, 0x12,
       0x34, 0x56, 0x78, 0x9A, 0xBB, 0x0B, 0x16]
      ready)) (·.out) = some ([]) := by
  decide +kernel

/-- V-DSC-6: the sub-device is not checked. -/
theorem test_discMute :
    after (exec .discMute (holding
      [0x01, 0x18, 0x12, 0x34, 0x56, 0x78, 0x9A, 0xBC, 0xAB, 0xCD, 0x00, 0x00, 0x00, 0x01, 0x36,
       0x01, 0x00, 0x00, 0x01, 0x10, 0x00, 0x02, 0x00, 0x05, 0x12]
      ready)) (fun t => (t.mute, t.out)) = some (true, responseLine
      [0x01, 0x1A, 0xAB, 0xCD, 0x00, 0x00, 0x00, 0x01, 0x12, 0x34, 0x56, 0x78, 0x9A, 0xBC,
       0x36, 0x00, 0x00, 0x00, 0x01, 0x11, 0x00, 0x02, 0x02, 0x00, 0x00, 0x05, 0x16]) := by
  decide +kernel

/-- V-DSC-5: not effective when sent to a group. -/
theorem test_discMute_group :
    after (exec .discMute (holding
      [0x01, 0x18, 0x12, 0x34, 0xFF, 0xFF, 0xFF, 0xFF, 0xAB, 0xCD, 0x00, 0x00, 0x00, 0x01, 0x35,
       0x01, 0x00, 0x00, 0x00, 0x10, 0x00, 0x02, 0x00, 0x06, 0xE8]
      ready)) (fun t => (t.mute, t.out)) = some (false, []) := by
  decide +kernel

/-- V-DSC-2. -/
theorem test_discUnMute :
    after (exec .discUnMute (holding
      [0x01, 0x18, 0x12, 0x34, 0x56, 0x78, 0x9A, 0xBC, 0xAB, 0xCD, 0x00, 0x00, 0x00, 0x01, 0x15,
       0x01, 0x00, 0x00, 0x00, 0x10, 0x00, 0x03, 0x00, 0x04, 0xF1]
      { ready with mute := true })) (fun t => (t.mute, t.out)) = some (false, responseLine
      [0x01, 0x1A, 0xAB, 0xCD, 0x00, 0x00, 0x00, 0x01, 0x12, 0x34, 0x56, 0x78, 0x9A, 0xBC,
       0x15, 0x00, 0x00, 0x00, 0x00, 0x11, 0x00, 0x03, 0x02, 0x00, 0x00, 0x04, 0xF5]) := by
  decide +kernel

/-- V-DSC-3: not effective when sent to all. -/
theorem test_discUnMute_group :
    after (exec .discUnMute (holding
      [0x01, 0x18, 0xFF, 0xFF, 0xFF, 0xFF, 0xFF, 0xFF, 0xAB, 0xCD, 0x00, 0x00, 0x00, 0x01, 0x27,
       0x01, 0x00, 0x00, 0x00, 0x10, 0x00, 0x03, 0x00, 0x08, 0x93]
      { ready with mute := true })) (fun t => (t.mute, t.out)) = some (true, []) := by
  decide +kernel

/-- V-GET-1. -/
theorem test_getIdentifyDevice :
    after (exec .getIdentifyDevice (holding
      [0x01, 0x18, 0x12, 0x34, 0x56, 0x78, 0x9A, 0xBC, 0xAB, 0xCD, 0x00, 0x00, 0x00, 0x01, 0x05,
       0x01, 0x00, 0x00, 0x00, 0x20, 0x10, 0x00, 0x00, 0x04, 0xFE]
      { ready with identify := true })) (·.out) = some (responseLine
      [0x01, 0x19, 0xAB, 0xCD, 0x00, 0x00, 0x00, 0x01, 0x12, 0x34, 0x56, 0x78, 0x9A, 0xBC,
       0x05, 0x00, 0x00, 0x00, 0x00, 0x21, 0x10, 0x00, 0x01, 0x01, 0x05, 0x01]) := by
  decide +kernel

/-- V-VAL-4, sub-device FFFF, with the times of V-TMR-7: across the wrap of the counter 32 units have
passed, so 144 are waited; a NACK waits like an ACK (V-TMR-9). -/
theorem test_getIdentifyDevice_subdevice :
    after (exec .getIdentifyDevice (holding
      [0x01, 0x18, 0x12, 0x34, 0x56, 0x78, 0x9A, 0xBC, 0xAB, 0xCD, 0x00, 0x00, 0x00, 0x01, 0x26,
       0x01, 0x00, 0xFF, 0xFF, 0x20, 0x10, 0x00, 0x00, 0x07, 0x1D]
      { ready with t0 := 4294967280, now := 16 })) (·.out) = some ([.wait 144] ++ responseLine
      [0x01, 0x1A, 0xAB, 0xCD, 0x00, 0x00, 0x00, 0x01, 0x12, 0x34, 0x56, 0x78, 0x9A, 0xBC,
       0x26, 0x02, 0x00, 0xFF, 0xFF, 0x21, 0x10, 0x00, 0x02, 0x00, 0x09, 0x07, 0x2C]) := by
  decide +kernel

/-- V-SET-1. -/
theorem test_setIdentifyDevice :
    after (exec .setIdentifyDevice (holding
      [0x01, 0x19, 0x12, 0x34, 0x56, 0x78, 0x9A, 0xBC, 0xAB, 0xCD, 0x00, 0x00, 0x00, 0x01, 0x10,
       0x01, 0x00, 0x00, 0x00, 0x30, 0x10, 0x00, 0x01, 0x01, 0x05, 0x1C]
      ready)) (fun t => ((t.identify, t.rdmChangedFlag), t.out)) = some ((true, true), responseLine
      [0x01, 0x18, 0xAB, 0xCD, 0x00, 0x00, 0x00, 0x01, 0x12, 0x34, 0x56, 0x78, 0x9A, 0xBC,
       0x10, 0x00, 0x00, 0x00, 0x00, 0x31, 0x10, 0x00, 0x00, 0x05, 0x19]) := by
  decide +kernel

/-- V-SET-2: the value 2. -/
theorem test_setIdentifyDevice_range :
    after (exec .setIdentifyDevice (holding
      [0x01, 0x19, 0x12, 0x34, 0x56, 0x78, 0x9A, 0xBC, 0xAB, 0xCD, 0x00, 0x00, 0x00, 0x01, 0x0F,
       0x01, 0x00, 0x00, 0x00, 0x30, 0x10, 0x00, 0x01, 0x02, 0x05, 0x1C]
      ready)) (fun t => ((t.identify, t.rdmChangedFlag), t.out)) = some ((false, false), responseLine
      [0x01, 0x1A, 0xAB, 0xCD, 0x00, 0x00, 0x00, 0x01, 0x12, 0x34, 0x56, 0x78, 0x9A, 0xBC,
       0x0F, 0x02, 0x00, 0x00, 0x00, 0x31, 0x10, 0x00, 0x02, 0x00, 0x06, 0x05, 0x24]) := by
  decide +kernel

/-- V-GET-3. -/
theorem test_getDeviceLabel :
    after (exec .getDeviceLabel (holding
      [0x01, 0x18, 0x12, 0x34, 0x56, 0x78, 0x9A, 0xBC, 0xAB, 0xCD, 0x00, 0x00, 0x00, 0x01, 0x0C,
       0x01, 0x00, 0x00, 0x00, 0x20, 0x00, 0x82, 0x00, 0x05, 0x77]
      { ready with label := [0x48, 0x69] })) (·.out) = some (responseLine
      [0x01, 0x1A, 0xAB, 0xCD, 0x00, 0x00, 0x00, 0x01, 0x12, 0x34, 0x56, 0x78, 0x9A, 0xBC,
       0x0C, 0x00, 0x00, 0x00, 0x00, 0x21, 0x00, 0x82, 0x02, 0x48, 0x69, 0x06, 0x2C]) := by
  decide +kernel

/-- V-SET-3. -/
theorem test_setDeviceLabel :
    after (exec .setDeviceLabel (holding
      [0x01, 0x1A, 0x12, 0x34, 0x56, 0x78, 0x9A, 0xBC, 0xAB, 0xCD, 0x00, 0x00, 0x00, 0x01, 0x0B,
       0x01, 0x00, 0x00, 0x00, 0x30, 0x00, 0x82, 0x02, 0x48, 0x69, 0x06, 0x3B]
      ready)) (fun t => ((t.label, t.rdmChangedFlag), t.out)) = some (([0x48, 0x69], true), responseLine
      [0x01, 0x18, 0xAB, 0xCD, 0x00, 0x00, 0x00, 0x01, 0x12, 0x34, 0x56, 0x78, 0x9A, 0xBC,
       0x0B, 0x00, 0x00, 0x00, 0x00, 0x31, 0x00, 0x82, 0x00, 0x05, 0x86]) := by
  decide +kernel

/-- V-SET-4: 33 bytes. -/
theorem test_setDeviceLabel_too_long :
    after (exec .setDeviceLabel (holding
      [0x01, 0x39, 0x12, 0x34, 0x56, 0x78, 0x9A, 0xBC, 0xAB, 0xCD, 0x00, 0x00, 0x00, 0x01, 0x1C,
       0x01, 0x00, 0x00, 0x00, 0x30, 0x00, 0x82, 0x21, 0x41, 0x42, 0x43, 0x44, 0x45, 0x46, 0x47,
       0x48, 0x49, 0x4A, 0x4B, 0x4C, 0x4D, 0x4E, 0x4F, 0x50, 0x51, 0x52, 0x53, 0x54, 0x55, 0x56,
       0x57, 0x58, 0x59, 0x5A, 0x5B, 0x5C, 0x5D, 0x5E, 0x5F, 0x60, 0x61, 0x10, 0x4A]
      { ready with label := [0x48, 0x69] })) (fun t => ((t.label, t.rdmChangedFlag), t.out)) = some (([0x48, 0x69], false), responseLine
      [0x01, 0x1A, 0xAB, 0xCD, 0x00, 0x00, 0x00, 0x01, 0x12, 0x34, 0x56, 0x78, 0x9A, 0xBC,
       0x1C, 0x02, 0x00, 0x00, 0x00, 0x31, 0x00, 0x82, 0x02, 0x00, 0x01, 0x05, 0x9E]) := by
  decide +kernel

/-- V-GET-5. -/
theorem test_getDmxStartAddress :
    after (exec .getDmxStartAddress (holding
      [0x01, 0x18, 0x12, 0x34, 0x56, 0x78, 0x9A, 0xBC, 0xAB, 0xCD, 0x00, 0x00, 0x00, 0x01, 0x13,
       0x01, 0x00, 0x00, 0x00, 0x20, 0x00, 0xF0, 0x00, 0x05, 0xEC]
      { ready with startAddr := 0x0101 })) (·.out) = some (responseLine
      [0x01, 0x1A, 0xAB, 0xCD, 0x00, 0x00, 0x00, 0x01, 0x12, 0x34, 0x56, 0x78, 0x9A, 0xBC,
       0x13, 0x00, 0x00, 0x00, 0x00, 0x21, 0x00, 0xF0, 0x02, 0x01, 0x01, 0x05, 0xF2]) := by
  decide +kernel

/-- V-GET-6. -/
theorem test_getDmxStartAddress_bare :
    after (exec .getDmxStartAddress (holding
      [0x01, 0x18, 0x12, 0x34, 0x56, 0x78, 0x9A, 0xBC, 0xAB, 0xCD, 0x00, 0x00, 0x00, 0x01, 0x13,
       0x01, 0x00, 0x00, 0x00, 0x20, 0x00, 0xF0, 0x00, 0x05, 0xEC]
      bare)) (·.out) = some (responseLine
      [0x01, 0x1A, 0xAB, 0xCD, 0x00, 0x00, 0x00, 0x01, 0x12, 0x34, 0x56, 0x78, 0x9A, 0xBC,
       0x13, 0x00, 0x00, 0x00, 0x00, 0x21, 0x00, 0xF0, 0x02, 0x00, 0x00, 0x05, 0xF0]) := by
  decide +kernel

/-- V-SET-6: the value 512. -/
theorem test_setDmxStartAddress :
    after (exec .setDmxStartAddress (holding
      [0x01, 0x1A, 0x12, 0x34, 0x56, 0x78, 0x9A, 0xBC, 0xAB, 0xCD, 0x00, 0x00, 0x00, 0x01, 0x07,
       0x01, 0x00, 0x00, 0x00, 0x30, 0x00, 0xF0, 0x02, 0x02, 0x00, 0x05, 0xF6]
      ready)) (fun t => ((t.startAddr, t.rdmChangedFlag), t.out)) = some ((0x0200, true), responseLine
      [0x01, 0x18, 0xAB, 0xCD, 0x00, 0x00, 0x00, 0x01, 0x12, 0x34, 0x56, 0x78, 0x9A, 0xBC,
       0x07, 0x00, 0x00, 0x00, 0x00, 0x31, 0x00, 0xF0, 0x00, 0x05, 0xF0]) := by
  decide +kernel

/-- V-SET-5: the value 513. -/
theorem test_setDmxStartAddress_range :
    after (exec .setDmxStartAddress (holding
      [0x01, 0x1A, 0x12, 0x34, 0x56, 0x78, 0x9A, 0xBC, 0xAB, 0xCD, 0x00, 0x00, 0x00, 0x01, 0x06,
       0x01, 0x00, 0x00, 0x00, 0x30, 0x00, 0xF0, 0x02, 0x02, 0x01, 0x05, 0xF6]
      ready)) (fun t => ((t.startAddr, t.rdmChangedFlag), t.out)) = some ((0x0011, false), responseLine
      [0x01, 0x1A, 0xAB, 0xCD, 0x00, 0x00, 0x00, 0x01, 0x12, 0x34, 0x56, 0x78, 0x9A, 0xBC,
       0x06, 0x02, 0x00, 0x00, 0x00, 0x31, 0x00, 0xF0, 0x02, 0x00, 0x06, 0x05, 0xFB]) := by
  decide +kernel

/-- V-GET-7. -/
theorem test_getSupportedParameters :
    after (exec .getSupportedParameters (holding
      [0x01, 0x18, 0x12, 0x34, 0x56, 0x78, 0x9A, 0xBC, 0xAB, 0xCD, 0x00, 0x00, 0x00, 0x01, 0x18,
       0x01, 0x00, 0x00, 0x00, 0x20, 0x00, 0x50, 0x00, 0x05, 0x51]
      ready)) (·.out) = some (responseLine
      [0x01, 0x20, 0xAB, 0xCD, 0x00, 0x00, 0x00, 0x01, 0x12, 0x34, 0x56, 0x78, 0x9A, 0xBC,
       0x18, 0x00, 0x00, 0x00, 0x00, 0x21, 0x00, 0x50, 0x08, 0x00, 0x82, 0x00, 0xF0, 0x00,
       0x81, 0x80, 0x01, 0x07, 0xD5]) := by
  decide +kernel

/-- V-SET-8b: nothing is validated first. -/
theorem test_setSupportedParameters :
    after (exec .setSupportedParameters (holding
      [0x01, 0x19, 0x12, 0x34, 0x56, 0x78, 0x9A, 0xBC, 0xAB, 0xCD, 0x00, 0x00, 0x00, 0x01, 0x1F,
       0x01, 0x00, 0x00, 0x01, 0x30, 0x00, 0x50, 0x01, 0x00, 0x05, 0x6B]
      ready)) (·.out) = some (responseLine
      [0x01, 0x1A, 0xAB, 0xCD, 0x00, 0x00, 0x00, 0x01, 0x12, 0x34, 0x56, 0x78, 0x9A, 0xBC,
       0x1F, 0x02, 0x00, 0x00, 0x01, 0x31, 0x00, 0x50, 0x02, 0x00, 0x05, 0x05, 0x74]) := by
  decide +kernel

/-- V-GET-9. -/
theorem test_getDeviceInfo :
    after (exec .getDeviceInfo (holding
      [0x01, 0x18, 0x12, 0x34, 0x56, 0x78, 0x9A, 0xBC, 0xAB, 0xCD, 0x00, 0x00, 0x00, 0x01, 0x17,
       0x01, 0x00, 0x00, 0x00, 0x20, 0x00, 0x60, 0x00, 0x05, 0x60]
      ready)) (·.out) = some (responseLine
      [0x01, 0x2B, 0xAB, 0xCD, 0x00, 0x00, 0x00, 0x01, 0x12, 0x34, 0x56, 0x78, 0x9A, 0xBC,
       0x17, 0x00, 0x00, 0x00, 0x00, 0x21, 0x00, 0x60, 0x13, 0x01, 0x00, 0x01, 0x02, 0x7F,
       0xFF, 0x01, 0x02, 0x03, 0x04, 0x00, 0x04, 0x01, 0x01, 0x00, 0x11, 0x00, 0x00, 0x00,
       0x07, 0x29]) := by
  decide +kernel

/-- V-GET-9b. -/
theorem test_getDeviceInfo_bare :
    after (exec .getDeviceInfo (holding
      [0x01, 0x18, 0x12, 0x34, 0x56, 0x78, 0x9A, 0xBC, 0xAB, 0xCD, 0x00, 0x00, 0x00, 0x01, 0x17,
       0x01, 0x00, 0x00, 0x00, 0x20, 0x00, 0x60, 0x00, 0x05, 0x60]
      bare)) (·.out) = some (responseLine
      [0x01, 0x2B, 0xAB, 0xCD, 0x00, 0x00, 0x00, 0x01, 0x12, 0x34, 0x56, 0x78, 0x9A, 0xBC,
       0x17, 0x00, 0x00, 0x00, 0x00, 0x21, 0x00, 0x60, 0x13, 0x01, 0x00, 0x00, 0x00, 0x7F,
       0xFF, 0x01, 0x02, 0x03, 0x04, 0x00, 0x00, 0x01, 0x01, 0x00, 0x00, 0x00, 0x00, 0x00,
       0x07, 0x11]) := by
  decide +kernel

/-- V-GET-10. -/
theorem test_getManufacturerLabel :
    after (exec .getManufacturerLabel (holding
      [0x01, 0x18, 0x12, 0x34, 0x56, 0x78, 0x9A, 0xBC, 0xAB, 0xCD, 0x00, 0x00, 0x00, 0x01, 0x19,
       0x01, 0x00, 0x00, 0x00, 0x20, 0x00, 0x81, 0x00, 0x05, 0x83]
      ready)) (·.out) = some (responseLine
      [0x01, 0x1C, 0xAB, 0xCD, 0x00, 0x00, 0x00, 0x01, 0x12, 0x34, 0x56, 0x78, 0x9A, 0xBC,
       0x19, 0x00, 0x00, 0x00, 0x00, 0x21, 0x00, 0x81, 0x04, 0x41, 0x43, 0x4D, 0x45, 0x06,
       0xA1]) := by
  decide +kernel

/-- V-GET-11. -/
theorem test_getDeviceModelDescription :
    after (exec .getDeviceModelDescription (holding
      [0x01, 0x18, 0x12, 0x34, 0x56, 0x78, 0x9A, 0xBC, 0xAB, 0xCD, 0x00, 0x00, 0x00, 0x01, 0x20,
       0x01, 0x00, 0x00, 0x00, 0x20, 0x00, 0x80, 0x00, 0x05, 0x89]
      ready)) (·.out) = some (responseLine
      [0x01, 0x1F, 0xAB, 0xCD, 0x00, 0x00, 0x00, 0x01, 0x12, 0x34, 0x56, 0x78, 0x9A, 0xBC,
       0x20, 0x00, 0x00, 0x00, 0x00, 0x21, 0x00, 0x80, 0x07, 0x44, 0x69, 0x6D, 0x6D, 0x65,
       0x72, 0x34, 0x08, 0x29]) := by
  decide +kernel

/-- V-GET-12. -/
theorem test_getSoftwareVersionLabel :
    after (exec .getSoftwareVersionLabel (holding
      [0x01, 0x18, 0x12, 0x34, 0x56, 0x78, 0x9A, 0xBC, 0xAB, 0xCD, 0x00, 0x00, 0x00, 0x01, 0x21,
       0x01, 0x00, 0x00, 0x00, 0x20, 0x00, 0xC0, 0x00, 0x05, 0xCA]
      ready)) (·.out) = some (responseLine
      [0x01, 0x1C, 0xAB, 0xCD, 0x00, 0x00, 0x00, 0x01, 0x12, 0x34, 0x56, 0x78, 0x9A, 0xBC,
       0x21, 0x00, 0x00, 0x00, 0x00, 0x21, 0x00, 0xC0, 0x04, 0x76, 0x31, 0x2E, 0x32, 0x06,
       0xD9]) := by
  decide +kernel

/-- V-DSP-5: class FF is answered as class 00. -/
theorem test_rdmNomatch_class_wraps :
    after (exec (.rdmNomatch 0xFF 0x1234) (holding
      [0x01, 0x18, 0x12, 0x34, 0x56, 0x78, 0x9A, 0xBC, 0xAB, 0xCD, 0x00, 0x00, 0x00, 0x01, 0x1B,
       0x01, 0x00, 0x00, 0x00, 0xFF, 0x12, 0x34, 0x00, 0x06, 0x29]
      ready)) (·.out) = some (responseLine
      [0x01, 0x1A, 0xAB, 0xCD, 0x00, 0x00, 0x00, 0x01, 0x12, 0x34, 0x56, 0x78, 0x9A, 0xBC,
       0x1B, 0x02, 0x00, 0x00, 0x00, 0x00, 0x12, 0x34, 0x02, 0x00, 0x00, 0x05, 0x2F]) := by
  decide +kernel

/-- V-DSP-3, V-DSP-1 and V-BRK-10: a break answers a request sent to all devices, ignores one for
another device, and reads a message of nothing but a start code from the stale bytes. -/
theorem test_brk_dispatch :
    after (exec (.brk 0 200 []) (receiving (request everyone 0 0x20 0x10 0x00 []) ready))
      (fun t => (t.fsm, t.idx, t.act, t.out.length)) = some (.brk, 0, 0, 34) ∧
    after (exec (.brk 0 200 [])
        (receiving (request [0x12, 0x34, 0x56, 0x78, 0x9A, 0xBD] 0 0x20 0x10 0x00 []) ready))
      (fun t => (t.fsm, t.idx, t.act, t.out)) = some (.brk, 0, 0, []) ∧
    after (exec (.brk 7 500 []) { ready with fsm := .rdmRecv })
      (fun t => (t.fsm, t.act, t.out, t.t0)) = some (.brk, 0, [], 7) := by decide +kernel

/-! ## Application interface (R271 to R279), `RESET` (R320) -/

/-- V-HOST-1 and V-HOST-3. -/
theorem test_setMode :
    after (exec (.setMode .output) { ready with mode := .off })
      (fun t => (t.out, t.mode, t.fsm)) =
      some ([.dir .tx, .cfg .brk, .wr 0x00], .output, .brk) ∧
    after (exec (.setMode .off) { ready with fsm := .dmxRecv, idx := 40 })
      (fun t => (t.out, t.mode, t.fsm, t.idx)) = some ([.stop], .off, .idle, 0) := by
  decide +kernel

/-- V-HOST-5 and V-HOST-6. -/
theorem test_setChannel :
    after (exec (.setChannel 0 0x01) { ready with act := 1 }) (·.mem.cells) =
      some [(512, 0x01)] ∧
    after (exec (.setChannel 512 0x77) ready) (·.mem.cells) = some [] := by decide +kernel

/-- V-HOST-8, over memory that reads 0. -/
theorem test_setChannels :
    after (exec (.setChannels 510 3 [0x01, 0x02, 0x03]) (holding [0x55] blank)) (·.mem.cells) =
      some [(510, 0x01), (511, 0x02)] := by decide +kernel

/-- R274: the inactive buffer, first and last byte included. -/
theorem test_getBuffer :
    after (exec .getBuffer { holding [0x55] blank with
        mem := { draw := [], cells := [(0, 0x55), (512, 0x11), (1023, 0x99)] } }) (·.returned) =
      some [.bytes (0x11 :: List.replicate 510 0x00 ++ [0x99])] := by decide +kernel

/-- V-HOST-11. -/
theorem test_newFrame :
    after (exec .newFrame { ready with newFrameFlag := true })
      (fun t => (t.returned, t.newFrameFlag)) = some ([.bool true], false) := by decide +kernel

/-- V-HOST-12. -/
theorem test_rdmChanged :
    after (exec .rdmChanged { ready with rdmChangedFlag := true })
      (fun t => (t.returned, t.rdmChangedFlag)) = some ([.bool true], false) := by decide +kernel

/-- V-HOST-13. -/
theorem test_isIdentify :
    after (exec .isIdentify { ready with identify := true })
      (fun t => (t.returned, t.identify)) = some ([.bool true], true) := by decide +kernel

/-- V-HOST-14. -/
theorem test_getLabel :
    after (exec .getLabel { ready with label := [0x48, 0x69] }) (·.returned) =
      some [.bytes [0x48, 0x69]] := by decide +kernel

/-- V-HOST-16 and V-HOST-17. -/
theorem test_poll :
    after (exec .poll { ready with fsm := .dmxRecv, rxq := [0x11, 0x22] })
      (fun t => (t.peekBytes 0 3, t.idx, t.rxq)) = some ([0x11, 0x22, 0xEE], 2, []) ∧
    after (exec .poll { ready with mode := .output, fsm := .brk, rxq := [0x11] }) (·.rxq) =
      some [0x11] := by decide +kernel

/-- R49: the registers take their reset values, the memory keeps its content. -/
theorem test_reset :
    after (exec .reset { holding [0x55] ready with
        fsm := .rdmRecv, act := 1, mute := true, startAddr := 9 })
      (fun t => (t.fsm, t.act, t.mute, t.startAddr)) = some (.idle, 0, false, 0x0011) ∧
    after (exec .reset (holding [0x55] ready)) (·.mem.cells) = some [(0, 0x55)] := by
  decide +kernel

/-- R49: the state the machine starts in. -/
theorem test_initial_state :
    (State.reset.mode, State.reset.fsm, State.reset.act, State.reset.label, State.reset.rxq) =
      (.off, .idle, 0, [], []) := rfl

/-! ## Words of the opcode table as the next operation -/

theorem test_stage_start_code :
    after (step (State.reset.withFetchWord 8 0xCC)) (fun t => (t.fsm, t.rxq, t.inbox)) =
      some (.rdmRecv, [], []) := rfl

theorem test_stage_rdm_command :
    after (step (ready.withFetchWord 24 0x301000)) (fun t => (t.fsm, t.peek 24)) =
      some (.brk, 0x01) := by decide +kernel

/-- From the state after reset itself, whatever the memory comes up with. -/
theorem test_stage_rdm_command_after_reset :
    after (step (State.reset.withFetchWord 24 0x301000)) (·.fsm) = some .brk := rfl

theorem test_stage_event :
    after (step (State.reset.withFetchWord 4 0x7)) (·.returned.length) = some 1 := by
  decide +kernel

/-! ## Witnesses: something meets the hypotheses of each statement -/

/-- Just after a break. -/
def armed : State := { ready with fsm := .brk }

/-- Inside a DMX frame. -/
def inDmx (k : Nat) : State := { ready with fsm := .dmxRecv, idx := k }

/-- Inside an RDM message. -/
def inRdm (k : Nat) : State := { ready with fsm := .rdmRecv, idx := k }

/-- Sending a frame. -/
def sending (k : Nat) : State := { ready with mode := .output, fsm := .dmxTx, idx := k }

/-- A request of no data to this device. -/
def asked : State := holding (request own 0 0x20 0x10 0x00 []) ready

/-- A request with the given data to this device. -/
def told (data : List Byte) : State := holding (request own 0 0x30 0x10 0x00 data) ready

/-- A unique-branch request with the given bounds. -/
def branch (low high : List Byte) : State :=
  holding (request everyone 0 0x10 0x00 0x01 (low ++ high)) ready

/-- The data length is the largest a response may have. -/
def fullData : State := holding (List.replicate 22 0 ++ [0xE7]) ready

theorem ready_inv : ready.Inv where
  memWf := by decide +kernel
  cfgWf := by decide +kernel
  idxLe := by decide
  brkIdx := by decide
  completeIdx := by decide
  recvIdx := by decide
  outputFsm := by decide
  inputFsm := by decide
  offFsm := by decide
  labelLe := by decide
  startAddrRange := by decide
  startAddrAbsent := by decide
  irqOff := rfl
  frameCountLt := by decide +kernel
  t0Lt := by decide +kernel
  nowLt := by decide +kernel

theorem inv_with_inbox {s : State} (h : s.Inv) (ds : List Delivery) :
    ({ s with inbox := ds } : State).Inv :=
  ⟨h.memWf, h.cfgWf, h.idxLe, h.brkIdx, h.completeIdx, h.recvIdx, h.outputFsm, h.inputFsm,
    h.offFsm, h.labelLe, h.startAddrRange, h.startAddrAbsent, h.irqOff, h.frameCountLt, h.t0Lt,
    h.nowLt⟩

theorem witness_DecodeOfEncodeIsIdentity :
    Config.device.proto.distinct = true ∧
    WellFormed Config.device (.brk 4294967295 0 [0x01]) = true ∧
    WellFormed Config.device (.rdmNomatch 0xFF 0xFFFF) = true ∧
    WellFormed Config.device (.setChannels 0xFFFF 0 []) = true ∧
    WellFormed Config.device (.scOther 0xFF) = true := by decide +kernel

theorem witness_EncodeOfDecodeIsIdentity :
    decode Config.device .event [0x5, 0x01, 0xFF, 0x99, 0x07] =
      .ok (.setChannel 511 0x99, [0x07]) ∧
    decode Config.device .rdmMsg [0xFF, 0x12, 0x34] = .ok (.rdmNomatch 0xFF 0x1234, []) :=
  ⟨rfl, rfl⟩

theorem witness_HandlerTableOrderIsUnobservable :
    Config.device.proto.distinct = true ∧
    (handlerTable Config.device).reverse.Perm (handlerTable Config.device) :=
  ⟨by decide, List.reverse_perm _⟩

theorem witness_StepRunsTheDecodedEvent :
    decodePacket ({ ready with inbox := [.event [0x8]] } : State).cfg [0x8] = .ok .newFrame ∧
    ({ ready with inbox := [.arrive [0x01]] } : State).inbox = [.arrive [0x01]] ∧
    ready.inbox = [] := ⟨rfl, rfl, rfl⟩

theorem witness_StartCodeSelectsFrameKind : armed.mode = .input ∧ armed.fsm = .brk := ⟨rfl, rfl⟩

theorem witness_StartCodeRowsMoveTheSequencer :
    (armed.mode = .input ∧ armed.fsm = .brk ∧ (0x17 : Byte) ≠ 0x00 ∧ (0x17 : Byte) ≠ 0xCC) ∧
    (ready.mode ≠ .input ∨ ready.fsm ≠ .brk) := by decide

theorem witness_ReceivedByteIsStored :
    ((inDmx 511).mode = .input ∧ (inDmx 511).fsm = .dmxRecv ∧ (inDmx 511).idx < 512) ∧
    ((inRdm 511).mode = .input ∧ (inRdm 511).fsm = .rdmRecv ∧ (inRdm 511).idx < 512) := by decide

theorem witness_ReceivedByteIsDropped :
    (sending 3).mode ≠ .input ∧ ready.fsm = .idle ∧
    ({ ready with fsm := .dmxComplete, idx := 512 } : State).fsm = .dmxComplete ∧
    (sending 3).fsm = .dmxTx := by decide

theorem witness_IndexOutsideTheBufferFaults :
    ((inDmx 512).mode = .input ∧ (inDmx 512).fsm = .dmxRecv ∧ 512 ≤ (inDmx 512).idx) ∧
    ((inRdm 512).fsm = .rdmRecv ∧ 512 ≤ (inRdm 512).idx) ∧
    ((sending 513).mode = .output ∧ (sending 513).fsm = .dmxTx ∧ 512 < (sending 513).idx) := by
  decide

theorem witness_BreakDrainsAsIfNotified :
    ({ armed with rxq := [0xCC] } : State).mode = .input ∧
    execAll (({ armed with rxq := [0xCC] } : State).rxq.map .rxbyte) { armed with rxq := [0xCC] } =
      .next { armed with fsm := .rdmRecv } := ⟨rfl, rfl⟩

theorem witness_PollDeliversTheQueue :
    execAll (({ armed with rxq := [0xCC] } : State).rxq.map .rxbyte) { armed with rxq := [0xCC] } =
      .next { armed with fsm := .rdmRecv } ∧
    (inDmx 509).mode = .input ∧ (inDmx 509).fsm = .dmxRecv ∧
    ({ inDmx 509 with rxq := [0x01, 0x02] } : State).idx +
      ({ inDmx 509 with rxq := [0x01, 0x02] } : State).rxq.length < 512 ∧
    (sending 0).mode ≠ .input := ⟨rfl, rfl, rfl, by decide, by decide⟩

theorem witness_BreakPublishesTheFrame :
    ((inDmx 0).mode = .input ∧ (inDmx 0).fsm = .dmxRecv ∧ (inDmx 0).rxq = []) ∧
    ({ ready with fsm := .dmxComplete, idx := 512 } : State).fsm = .dmxComplete := by decide

theorem witness_BreakWithoutFrameOnlyArms :
    (ready.mode = .input ∧ ready.fsm = .idle ∧ ready.rxq = []) ∧
    (armed.mode = .input ∧ armed.fsm = .brk ∧ armed.rxq = []) ∧ (sending 0).mode ≠ .input := by
  decide

/-- The message of V-GET-2. -/
theorem witness_BreakRunsTheSelectedCommand :
    let s := receiving (request own 0 0x20 0x10 0x00 []) ready
    s.mode = .input ∧ s.fsm = .rdmRecv ∧ s.rxq = [] ∧ s.sizesOk = true ∧ s.accepted = true := by
  decide +kernel

/-- The destination of V-DSP-1. -/
theorem witness_OtherDestinationsAreIgnored :
    let s := receiving [0x01, 0x18, 0x12, 0x34, 0x56, 0x78, 0x9A, 0xBD] ready
    s.mode = .input ∧ s.fsm = .rdmRecv ∧ s.rxq = [] ∧ s.sizesOk = true ∧
      s.peek48 2 ≠ s.cfg.uid ∧ s.peek48 2 ≠ s.cfg.vcast ∧ s.peek48 2 ≠ s.cfg.bcast := by
  decide +kernel

theorem witness_BreakAlwaysRearms : ready.Inv ∧ ready.mode = .input := ⟨ready_inv, rfl⟩

theorem witness_FullFrameIsPublishedInOrder :
    let data : List Byte := List.replicate 512 0x55
    let s := { armed with rxq := 0x00 :: (data ++ [0x99]) }
    s.mode = .input ∧ s.fsm = .brk ∧ s.idx = 0 ∧ data.length = 512 ∧
      s.rxq = 0x00 :: (data ++ [0x99]) := ⟨rfl, rfl, rfl, List.length_replicate, rfl⟩

theorem witness_ShortFramePublishesStaleTail :
    let data : List Byte := List.replicate 512 0x55
    ({ armed with rxq := [0x00] } : State).rxq = 0x00 :: [] ∧ ([] : List Byte).length ≤ 512 ∧
      ({ armed with rxq := 0x00 :: data } : State).rxq = 0x00 :: data ∧ data.length ≤ 512 ∧
      armed.mode = .input ∧ armed.fsm = .brk ∧ armed.idx = 0 :=
  ⟨rfl, by decide, rfl, List.length_replicate.le, rfl, rfl, rfl⟩

theorem witness_OversizedMessageIsNeverDispatched :
    let data : List Byte := List.replicate 512 0x55
    let s := { armed with rxq := 0xCC :: data }
    s.mode = .input ∧ s.fsm = .brk ∧ s.idx = 0 ∧ 512 ≤ data.length ∧ s.rxq = 0xCC :: data :=
  ⟨rfl, rfl, rfl, List.length_replicate.ge, rfl⟩

theorem witness_PumpSendsOneMoreByte :
    ({ sending 0 with fsm := .brk } : State).mode = .output ∧ (sending 511).fsm = .dmxTx ∧
    (sending 511).idx < 512 ∧ (sending 512).idx = 512 ∧ ready.mode ≠ .output := by decide

theorem witness_PumpCycleSendsTheWholeBuffer :
    let s : State := { sending 0 with fsm := .brk }
    s.mode = .output ∧ s.fsm = .brk ∧ s.idx = 0 := by decide

theorem witness_ResponseBuilderSendsTheMessage :
    (List.replicate 231 (0xFF : Byte)).length ≤ 231 := List.length_replicate.le

theorem witness_ResponseTypeAndNackPayload : fullData.pdl.toNat = 231 := by decide +kernel

theorem witness_ResponseSwapsAddressing :
    (ReplyKind.ack ≠ .ack ∨ fullData.pdl.toNat ≤ 231) ∧
    (ReplyKind.nack 0x0006 ≠ .ack ∨ ready.pdl.toNat ≤ 231) ∧ 5 < 6 := by decide +kernel

theorem witness_ChecksumIsTheAdditiveSum :
    (ReplyKind.ack ≠ .ack ∨ fullData.pdl.toNat ≤ 231) ∧
    (ReplyKind.nack 0x0006 ≠ .ack ∨ ready.pdl.toNat ≤ 231) := by decide +kernel

theorem witness_ResponseNeverLeavesBeforeTheGap :
    let s : State := { ready with t0 := 4294967280, now := 16 }
    (s.t0 < 2 ^ s.cfg.timeW ∧ s.now < 2 ^ s.cfg.timeW ∧ s.elapsed < 176) ∧
    176 ≤ ready.elapsed := by decide +kernel

/-- For the four statements about GET handlers, with and without a configuration. -/
theorem witness_GetRegistersAnswer :
    (asked.sizesOk = true ∧ asked.pdl = 0 ∧ asked.subDevice = 0 ∧
      asked.cfg.collab.isSome = true) ∧
    let s := holding (request own 0 0x20 0x10 0x00 []) bare
    s.sizesOk = true ∧ s.pdl = 0 ∧ s.subDevice = 0 ∧ s.cfg.collab = none := by decide +kernel

theorem witness_GetSupportedParametersAnswers :
    (asked.sizesOk = true ∧ asked.pdl = 0 ∧ asked.subDevice = 0 ∧
      asked.cfg.collab.isSome = true) ∧ bare.cfg.collab = none := by decide +kernel

theorem witness_GetDeviceInfoAnswers :
    (asked.sizesOk = true ∧ asked.pdl = 0 ∧ asked.subDevice = 0 ∧
      asked.cfg.collab.isSome = true) ∧ bare.cfg.collab = none := by decide +kernel

theorem witness_GetStringsAnswer :
    (asked.sizesOk = true ∧ asked.pdl = 0 ∧ asked.subDevice = 0 ∧
      asked.cfg.collab.isSome = true) ∧ bare.cfg.collab = none := by decide +kernel

theorem witness_SetIdentifyWritesTheFlag :
    ((told [1]).sizesOk = true ∧ (told [1]).pdl = 1 ∧ (told [1]).subDevice = 0 ∧
      (told [1]).peek 23 = (if true then 1 else 0)) ∧
    (told [0]).pdl = 1 ∧ (told [0]).peek 23 = (if false then 1 else 0) := by decide +kernel

theorem witness_SetLabelTakesTheBytes :
    let s := told (List.replicate 32 0x41)
    s.sizesOk = true ∧ s.pdl.toNat ≤ s.cfg.labelCap ∧ s.subDevice = 0 := by decide +kernel

theorem witness_SetStartAddressWritesTheRegister :
    ((told [2, 0]).sizesOk = true ∧ (told [2, 0]).pdl = 2 ∧ (told [2, 0]).subDevice = 0 ∧
      (told [2, 0]).cfg.collab.isSome = true ∧ ((told [2, 0]).peek16 23).toNat = 512) ∧
    ((told [0, 1]).peek16 23).toNat = 1 := by decide +kernel

/-- Each check alone, then both with each priority. -/
theorem witness_ValidationNacks :
    (∃ ok, acceptedPdl Config.device .setIdentifyDevice = some ok ∧ ok 2 = false ∧ ok 1 = true) ∧
    ((told [0, 0]).sizesOk = true ∧ (told [0, 0]).pdl = 2 ∧ (told [0, 0]).subDevice = 0) ∧
    (let s := holding (request own 1 0x30 0x10 0x00 [0]) ready
     s.sizesOk = true ∧ s.pdl = 1 ∧ s.subDevice ≠ 0) ∧
    (let s := holding (request own 1 0x30 0x10 0x00 [0, 0])
        { ready with cfg := { Config.device with nackPriority := .subdevFirst } }
     s.sizesOk = true ∧ s.pdl = 2 ∧ s.subDevice ≠ 0 ∧ s.cfg.nackPriority = .subdevFirst) ∧
    Config.device.nackPriority = .formatFirst :=
  ⟨⟨_, rfl, by decide, by decide⟩, by decide +kernel, by decide +kernel, by decide +kernel, rfl⟩

theorem witness_ValueNacks :
    ((told [2]).sizesOk = true ∧ (told [2]).subDevice = 0 ∧ (told [2]).pdl = 1 ∧
      2 ≤ ((told [2]).peek 23).toNat) ∧
    ((told [2, 1]).pdl = 2 ∧ ((told [2, 1]).peek16 23).toNat = 513) ∧
    ((told [0, 0]).pdl = 2 ∧ ((told [0, 0]).peek16 23).toNat = 0) ∧
    let s := holding (request own 0 0x30 0x00 0xF0 [2, 0]) bare
    s.sizesOk = true ∧ s.subDevice = 0 ∧ s.pdl = 2 ∧ (s.peek16 23).toNat = 512 ∧
      s.cfg.collab = none := by decide +kernel

theorem witness_SetSupportedParametersAlwaysNacks : ready.sizesOk = true := by decide +kernel

theorem witness_UnknownParameterNacks :
    ready.sizesOk = true ∧ ((0x30 : Byte), (0x0060 : Word16)) ∉ ready.cfg.rdmKeys := by
  decide +kernel

theorem witness_ParametersOutOfBoundsAreRefused :
    let s : State := { inRdm 25 with cfg := { Config.device with labelCap := 232 } }
    Instr.discMute.space = .rdmMsg ∧ s.sizesOk = false ∧ s.mode = .input ∧ s.fsm = .rdmRecv ∧
      s.rxq = [] := by decide +kernel

/-- The range holds just the device's id: both bounds at their limit. -/
theorem witness_UniqueBranchReplies :
    let s := branch own own
    s.sizesOk = true ∧ s.mute = false ∧ s.peek 1 = 36 ∧ s.peek 22 = 12 ∧
      (s.peek48 23).toNat ≤ s.cfg.uid.toNat ∧ s.cfg.uid.toNat ≤ (s.peek48 29).toNat := by
  decide +kernel

/-- Each way to be silent. -/
theorem witness_UniqueBranchIsSilent :
    ready.sizesOk = true ∧ ({ ready with mute := true } : State).mute = true ∧
    ready.peek 1 ≠ 36 ∧ ready.peek 22 ≠ 12 ∧
    (let s := branch [0x12, 0x34, 0x56, 0x78, 0x9A, 0xBD] everyone
     s.cfg.uid.toNat < (s.peek48 23).toNat) ∧
    (let s := branch [0, 0, 0, 0, 0, 0] [0x12, 0x34, 0x56, 0x78, 0x9A, 0xBB]
     (s.peek48 29).toNat < s.cfg.uid.toNat) := by decide +kernel

theorem witness_MuteAndUnmute :
    (asked.sizesOk = true ∧ asked.peek48 2 = asked.cfg.uid ∧ asked.pdl = 0) ∧
    ready.peek48 2 ≠ ready.cfg.uid ∧ (told [0]).pdl ≠ 0 := by decide +kernel

theorem witness_DiscoveryReplyLayout : 0 < 6 ∧ 5 < 6 := by decide

theorem witness_SetChannelWritesOneSlot :
    (511 : Word16).toNat < 512 ∧ 512 ≤ (512 : Word16).toNat := by decide

theorem witness_SetChannelsFillsTheBuffer :
    (3 : Word16).toNat = [(0x0A : Byte), 0x0B, 0x0C].length ∧
    (2 : Word16).toNat ≠ [(0x0A : Byte)].length := by decide

theorem witness_ResetRestoresTheDefaults :
    (ready.cfg.collab.map (·.startAddrInit)) = some 0x0011 ∧ bare.cfg.collab = none := ⟨rfl, rfl⟩

theorem witness_StepKeepsTheInvariants :
    ∃ t, ({ ready with inbox := [.event [0x8]] } : State).Inv ∧
      step { ready with inbox := [.event [0x8]] } = .next t :=
  ⟨_, inv_with_inbox ready_inv _, rfl⟩

theorem witness_ResetHasTheInvariants :
    Config.device.wf = true ∧ (List.replicate 1024 (0xEE : Byte)).length = 1024 :=
  ⟨by decide +kernel, List.length_replicate⟩

theorem witness_StepNeverStopsOnAnEvent :
    ({ ready with inbox := [.event [0xD]] } : State).Inv := inv_with_inbox ready_inv _

theorem witness_ParametersAreNeverWritten : ∃ t, exec (.setMode .off) ready = .next t := ⟨_, rfl⟩

theorem witness_InactiveBufferIsNeverWritten :
    ∃ t, ready.Inv ∧ exec (.setChannel 511 0x01) ready = .next t ∧ t.act = ready.act ∧ 511 < 512 :=
  ⟨_, ready_inv, rfl, rfl, by decide⟩

theorem witness_OnlyBreaksPublish :
    ∃ t, exec (.brk 0 0 []) (inDmx 3) = .next t ∧ Instr.brk 0 0 [] ≠ .reset ∧ t.act = 1 ∧
      execAll ((inDmx 3).rxq.map .rxbyte) (inDmx 3) = .next (inDmx 3) ∧
      (inDmx 3).fsm = .dmxRecv :=
  ⟨_, rfl, by decide, rfl, rfl, rfl⟩

/-- A SET run alone raises the flag, and so does the break that dispatches it. -/
theorem witness_OnlySetsRaiseRdmChanged :
    (∃ t, exec .setIdentifyDevice (told [1]) = .next t ∧ (told [1]).rdmChangedFlag = false ∧
      t.rdmChangedFlag = true ∧ acceptsSet (told [1]) .setIdentifyDevice = true) ∧
    let u := receiving (request own 0 0x30 0x10 0x00 [1]) ready
    u.mode = .input ∧ u.rdmChangedFlag = false ∧
      execAll (u.rxq.map .rxbyte) u = .next u ∧ u.fsm = .rdmRecv ∧ u.accepted = true ∧
      acceptsSet u (decodeRdmKey u.cfg u.commandClass u.paramId) = true ∧
      after (exec (.brk 0 200 []) u) (·.rdmChangedFlag) = some true :=
  ⟨⟨setIdentifyDevice (told [1]), rfl, rfl, by decide +kernel, by decide +kernel⟩,
    rfl, rfl, rfl, rfl, by decide +kernel, by decide +kernel, by decide +kernel⟩

/-- R209: every boundary of the ACK path, and a request just past it. -/
theorem test_acceptsSet :
    acceptsSet (told [0]) .setIdentifyDevice = true ∧
    acceptsSet (told [2]) .setIdentifyDevice = false ∧
    acceptsSet (told []) .setDeviceLabel = true ∧
    acceptsSet (told [0, 1]) .setDmxStartAddress = true ∧
    acceptsSet (told [2, 0]) .setDmxStartAddress = true ∧
    acceptsSet (told [2, 1]) .setDmxStartAddress = false ∧
    acceptsSet (holding (request own 0 0x30 0x00 0xF0 [0, 1]) bare) .setDmxStartAddress = false ∧
    acceptsSet (told [1]) .getIdentifyDevice = false := by decide +kernel

theorem witness_OnlySetModeChangesTheMode :
    ∃ t, exec (.setMode .output) { ready with mode := .off } = .next t ∧
      t.mode ≠ .off ∧ t.out ≠ ready.out := ⟨_, rfl, by decide, by decide⟩

theorem witness_UnspecifiedRegistersAreNeverObserved : (Instr.brk 0 0 []).space = .event := rfl

end Sys2Proof.Tests
end

section
/-! PROOFS. The statements of spec/00_scope.md: what a step runs, and the two places where the model
stops by name: an index that is no buffer offset, parameters beyond the required bounds. -/

namespace Sys2Proof.Machine

/-! ### One step, by the form of the inbox (log 1) -/

theorem step_event {s : State} {bytes : List Byte} {later : List Delivery} {i : Instr}
    (hin : s.inbox = .event bytes :: later) (hdec : decodePacket s.cfg bytes = .ok i) :
    step s = exec i { s with inbox := later } := by
  simp only [step, fetchAndRun, hin, hdec]

theorem step_arrive {s : State} {bs : List Byte} {later : List Delivery}
    (hin : s.inbox = .arrive bs :: later) :
    step s = .next { s with inbox := later, rxq := s.rxq ++ bs } := by
  simp only [step, fetchAndRun, hin]

theorem step_waiting {s : State} (hin : s.inbox = []) : step s = .next s := by
  simp only [step, fetchAndRun, hin]

/-- Settles O5: the three forms of the inbox, each by its own rule. -/
theorem stepRunsTheDecodedEvent : Obligations.StepRunsTheDecodedEvent := by
  unfold Obligations.StepRunsTheDecodedEvent
  exact ⟨fun _ _ _ _ => step_event, fun _ _ _ => step_arrive, fun _ => step_waiting⟩

/-! ### An index that is no buffer offset (U5, log 13) -/

theorem sendSlot_fault {s : State} (hi : 512 ≤ s.idx) :
    sendSlot s = .fault (.frameMemoryRange s.idx) := by
  simp [sendSlot, Nat.not_lt.mpr hi]

/-- Inside a transmitted frame the pump sends the next slot, unless the index stands exactly at the
end of the buffer (R161). -/
theorem exec_txdone_slot {s : State} (hm : s.mode = .output) (hf : s.fsm = .dmxTx)
    (hi : s.idx ≠ 512) : exec .txdone s = sendSlot s := by
  show execTxdone s = _
  simp only [execTxdone, hm, hf]
  exact if_neg hi

/-- Settles O10: reception stops at the store, transmission at the slot. -/
theorem indexOutsideTheBufferFaults : Obligations.IndexOutsideTheBufferFaults := by
  unfold Obligations.IndexOutsideTheBufferFaults
  refine ⟨fun s b hm hf hi => rxByte_fault b hm hf hi, fun s hm hf hi => ?_⟩
  rw [exec_txdone_slot hm hf hi.ne', sendSlot_fault hi.le]

/-! ### Parameters or a label beyond the bounds (U6, U16, log 12) -/

/-- The operations of the RDM encoding are the entries of the handler table and the answer to an
unknown key (R107, R108). -/
theorem rdmMsg_eq_handler_or_nomatch {i : Instr} (hi : i.space = .rdmMsg) :
    (∃ h : Handler, i = h.instr) ∨ ∃ cc pid, i = .rdmNomatch cc pid := by
  cases i <;> try (cases hi; done)
  case rdmNomatch cc pid => exact .inr ⟨cc, pid, rfl⟩
  case discUniqueBranch => exact .inl ⟨.discUniqueBranch, rfl⟩
  case discMute => exact .inl ⟨.discMute, rfl⟩
  case discUnMute => exact .inl ⟨.discUnMute, rfl⟩
  case getIdentifyDevice => exact .inl ⟨.getIdentifyDevice, rfl⟩
  case setIdentifyDevice => exact .inl ⟨.setIdentifyDevice, rfl⟩
  case getDeviceLabel => exact .inl ⟨.getDeviceLabel, rfl⟩
  case setDeviceLabel => exact .inl ⟨.setDeviceLabel, rfl⟩
  case getDmxStartAddress => exact .inl ⟨.getDmxStartAddress, rfl⟩
  case setDmxStartAddress => exact .inl ⟨.setDmxStartAddress, rfl⟩
  case getSupportedParameters => exact .inl ⟨.getSupportedParameters, rfl⟩
  case setSupportedParameters => exact .inl ⟨.setSupportedParameters, rfl⟩
  case getDeviceInfo => exact .inl ⟨.getDeviceInfo, rfl⟩
  case getManufacturerLabel => exact .inl ⟨.getManufacturerLabel, rfl⟩
  case getDeviceModelDescription => exact .inl ⟨.getDeviceModelDescription, rfl⟩
  case getSoftwareVersionLabel => exact .inl ⟨.getSoftwareVersionLabel, rfl⟩

theorem exec_rdmMsg_refused {s : State} {i : Instr} (hi : i.space = .rdmMsg)
    (hs : s.sizesOk = false) : exec i s = .refused .parameterBounds := by
  rcases rdmMsg_eq_handler_or_nomatch hi with ⟨h, rfl⟩ | ⟨cc, pid, rfl⟩
  · rw [exec_handler, withinBounds_refused _ hs]
  · exact withinBounds_refused (rdmNomatch cc pid) hs

/-- The break after an RDM message whose bytes are all processed: nothing is left to drain, and the
dispatch is refused for any destination. -/
theorem exec_brk_refused {s : State} (tDisp tResp : Nat) (during : List Byte)
    (hm : s.mode = .input) (hf : s.fsm = .rdmRecv) (hq : s.rxq = []) (hs : s.sizesOk = false) :
    exec (.brk tDisp tResp during) s = .refused .parameterBounds := by
  have hfin : finalise tDisp tResp during (enterFinalisation s) = .refused .parameterBounds :=
    finalise_refused tDisp tResp during hf hs
  show breakDetected tDisp tResp during s = _
  rw [breakDetected_input tDisp tResp during hm, hq, rxBytes_nil, andThen_next, hfin,
    andThen_refused]

/-- Settles O39: the commands on their own, then the break that dispatches one. -/
theorem parametersOutOfBoundsAreRefused : Obligations.ParametersOutOfBoundsAreRefused := by
  unfold Obligations.ParametersOutOfBoundsAreRefused
  exact ⟨fun _ _ => exec_rdmMsg_refused, fun _ => exec_brk_refused⟩

end Sys2Proof.Machine
end

section
/-! PROOFS. The invariants of spec/10_state.md (R39): the state after reset has them and every
operation keeps them, so that every step does. -/

namespace Sys2Proof.Machine

/-! ### The sequencer (R39 items 1 to 4) -/

/-- The part of the invariant that ties the mode, the sequencer and the index together. -/
structure SequencerOk (mode : Mode) (fsm : Fsm) (idx : Nat) : Prop where
  idxLe : idx ≤ 512
  brkIdx : fsm = .brk → idx = 0
  completeIdx : fsm = .dmxComplete → idx = 512
  recvIdx : fsm = .dmxRecv ∨ fsm = .rdmRecv → idx ≤ 511
  outputFsm : mode = .output → fsm = .brk ∨ fsm = .dmxTx
  inputFsm : mode = .input → fsm ≠ .dmxTx
  offFsm : mode = .off → fsm = .idle

/-- The sequencer may move to any position that R39 allows. -/
theorem State.Inv.moved {s : State} (hi : s.Inv) {mode : Mode} {fsm : Fsm} {idx : Nat}
    (h : SequencerOk mode fsm idx) : ({ s with mode, fsm, idx } : State).Inv :=
  { hi with
    idxLe := h.idxLe
    brkIdx := h.brkIdx
    completeIdx := h.completeIdx
    recvIdx := h.recvIdx
    outputFsm := h.outputFsm
    inputFsm := h.inputFsm
    offFsm := h.offFsm }

/-- At rest, outside output mode. -/
theorem sequencerOk_idle {mode : Mode} {idx : Nat} (hm : mode ≠ .output) (hi : idx ≤ 512) :
    SequencerOk mode .idle idx := by
  constructor <;> simp [hm, hi]

/-- Armed for the next break or start code, outside mode off. -/
theorem sequencerOk_brk {mode : Mode} (hm : mode ≠ .off) : SequencerOk mode .brk 0 := by
  constructor <;> simp [hm]

/-- Inside a received frame with room for one more byte. -/
theorem sequencerOk_recv {fsm : Fsm} {idx : Nat} (hf : fsm = .dmxRecv ∨ fsm = .rdmRecv)
    (hi : idx ≤ 511) : SequencerOk .input fsm idx := by
  rcases hf with rfl | rfl <;> constructor <;> grind

/-- A whole frame received. -/
theorem sequencerOk_complete : SequencerOk .input .dmxComplete 512 := by
  constructor <;> simp

/-- Inside a transmitted frame. -/
theorem sequencerOk_tx {idx : Nat} (hi : idx ≤ 512) : SequencerOk .output .dmxTx idx := by
  constructor <;> simp [hi]

/-! ### Reset (R49) -/

/-- What `Params.wf` says of the registers that take their reset value from the parameters. -/
theorem Params.wf_registers {p : Params} (h : p.wf = true) :
    p.labelInit.length ≤ p.labelCap ∧
    ∀ c, p.collab = some c → 1 ≤ c.startAddrInit.toNat ∧ c.startAddrInit.toNat ≤ 512 := by
  simp only [Params.wf, Params.sizesOk, Bool.and_eq_true, decide_eq_true_eq] at h
  refine ⟨by omega, fun c hc => ?_⟩
  simp only [hc, Bool.and_eq_true, decide_eq_true_eq] at h
  omega

/-- A reset gives a state with the invariants, whatever canonical memory it finds (U26). -/
theorem resetWith_inv {p : Params} {mem : Memory} (hp : p.wf = true) (hm : mem.wf = true)
    (draws : Nat) : (State.resetWith p mem draws).Inv := by
  obtain ⟨hlabel, haddr⟩ := Params.wf_registers hp
  have hseq : SequencerOk .off .idle 0 := sequencerOk_idle (by decide) (by decide)
  exact { hseq with
    memWf := hm
    cfgWf := hp
    labelLe := hlabel
    startAddrRange := fun hc => by
      obtain ⟨c, hc⟩ := Option.isSome_iff_exists.mp hc
      change p.collab = some c at hc
      simp only [State.resetWith, hc]
      exact haddr c hc
    startAddrAbsent := fun hc => by
      change p.collab = none at hc
      simp only [State.resetWith, hc]
    irqOff := rfl
    frameCountLt := Nat.two_pow_pos _
    t0Lt := Nat.mod_lt _ (Nat.two_pow_pos _)
    nowLt := Nat.mod_lt _ (Nat.two_pow_pos _) }

/-- Settles O53: the machine's own reset is the case of the default device and its power-up bytes. -/
theorem resetHasTheInvariants : Obligations.ResetHasTheInvariants := by
  unfold Obligations.ResetHasTheInvariants
  have hany : ∀ (p : Params) (draw : List Byte) (draws : Nat), p.wf = true → draw.length = 1024 →
      (State.resetWith p (Memory.ofDraw draw) draws).Inv :=
    fun _ _ draws hp hd => resetWith_inv hp (Memory.wf_ofDraw hd) draws
  exact ⟨hany _ _ 0 (by decide) (by simp), hany⟩

/-- Settles O51: the reset state, read off register by register. -/
theorem resetRestoresTheDefaults : Obligations.ResetRestoresTheDefaults := by
  unfold Obligations.ResetRestoresTheDefaults
  intro s
  refine ⟨{ State.resetWith s.cfg s.mem s.draws with
      inbox := s.inbox, out := s.out, returned := s.returned }, rfl,
    rfl, rfl, rfl, rfl, rfl, rfl, rfl, rfl, rfl, rfl, ?attached, ?absent,
    rfl, rfl, rfl, rfl, rfl, rfl, rfl⟩
  case attached =>
    intro c hc
    simp only [State.resetWith, hc]
  case absent =>
    intro hc
    simp only [State.resetWith, hc]

/-! ### Reception -/

/-- Everything a received byte can do when it is accepted: select the frame kind, be stored, or be
dropped (R131). -/
theorem rxByte_cases {b : Byte} {s t : State} (h : rxByte b s = .next t) :
    (s.mode = .input ∧ s.fsm = .brk ∧
      t = { s with rxq := s.rxq.tail, fsm := fsmAfterStartCode b }) ∨
    (s.mode = .input ∧ (s.fsm = .dmxRecv ∨ s.fsm = .rdmRecv) ∧ s.idx < 512 ∧
      t = { s.poke s.idx b with
        rxq := s.rxq.tail
        idx := s.idx + 1
        fsm := if s.idx + 1 = 512 then fsmWhenFull s.fsm else s.fsm }) ∨
    t = { s with rxq := s.rxq.tail } := by
  by_cases hm : s.mode = .input
  · by_cases hb : s.fsm = .brk
    · rw [rxByte_start b hm hb] at h
      cases h
      exact .inl ⟨hm, hb, rfl⟩
    · by_cases hr : s.fsm = .dmxRecv ∨ s.fsm = .rdmRecv
      · rcases Nat.lt_or_ge s.idx 512 with hlt | hge
        · rw [rxByte_store b hm hr hlt] at h
          cases h
          exact .inr (.inl ⟨hm, hr, hlt, rfl⟩)
        · rw [rxByte_fault b hm hr hge] at h
          cases h
      · rw [rxByte_drop b (.inr ⟨hb, not_or.mp hr⟩)] at h
        cases h
        exact .inr (.inr rfl)
  · rw [rxByte_drop b (.inl hm)] at h
    cases h
    exact .inr (.inr rfl)

/-- The first byte after a break leaves the sequencer where the index is still 0. -/
theorem sequencerOk_afterBreak {f : Fsm} (h : f = .dmxRecv ∨ f = .rdmRecv ∨ f = .idle) :
    SequencerOk .input f 0 := by
  rcases h with rfl | rfl | rfl
  · exact sequencerOk_recv (.inl rfl) (by decide)
  · exact sequencerOk_recv (.inr rfl) (by decide)
  · exact sequencerOk_idle (by decide) (by decide)

theorem fsmAfterStartCode_mem (b : Byte) :
    fsmAfterStartCode b = .dmxRecv ∨ fsmAfterStartCode b = .rdmRecv ∨
      fsmAfterStartCode b = .idle := by
  unfold fsmAfterStartCode
  split
  · exact .inl rfl
  · split
    · exact .inr (.inl rfl)
    · exact .inr (.inr rfl)

/-- A stored byte leaves room for the next, or ends the frame. -/
theorem sequencerOk_stored {f : Fsm} {idx : Nat} (hf : f = .dmxRecv ∨ f = .rdmRecv)
    (hi : idx < 512) :
    SequencerOk .input (if idx + 1 = 512 then fsmWhenFull f else f) (idx + 1) := by
  split
  next hfull =>
    rw [hfull]
    rcases hf with rfl | rfl
    · exact sequencerOk_complete
    · exact sequencerOk_idle (by decide) (by decide)
  next => exact sequencerOk_recv hf (by omega)

/-- Moving the sequencer just after a break, as each start code does. -/
theorem State.Inv.afterBreak {s : State} (hi : s.Inv) (hm : s.mode = .input) (hb : s.fsm = .brk)
    {f : Fsm} (hf : f = .dmxRecv ∨ f = .rdmRecv ∨ f = .idle) : ({ s with fsm := f } : State).Inv := by
  have h := hi.moved (sequencerOk_afterBreak hf)
  rwa [← hm, ← hi.brkIdx hb] at h

theorem rxByte_keeps_inv {b : Byte} {s t : State} (hi : s.Inv) (h : rxByte b s = .next t) :
    t.Inv := by
  rcases rxByte_cases h with ⟨hm, hb, rfl⟩ | ⟨hm, hr, hlt, rfl⟩ | rfl
  · exact { hi.afterBreak hm hb (fsmAfterStartCode_mem b) with }
  · have hmem : (s.poke s.idx b).Inv :=
      { hi with memWf := Memory.wf_write b hi.memWf (s.actAddr_lt hlt) }
    have hseq := hmem.moved (sequencerOk_stored hr hlt)
    rw [← hm] at hseq
    exact { hseq with }
  · exact { hi with }

theorem rxBytes_keeps_inv {bs : List Byte} {s t : State} (hi : s.Inv)
    (h : rxBytes bs s = .next t) : t.Inv := by
  induction bs generalizing s with
  | nil =>
    cases h
    exact hi
  | cons b bs ih =>
    obtain ⟨u, hb, hbs⟩ := andThen_eq_next.mp h
    exact ih (rxByte_keeps_inv hi hb) hbs

/-! ### RDM commands and start codes -/

/-- What a command may do keeps the invariants. -/
theorem Served.inv {s t : State} (h : Served s t) (hi : s.Inv) : t.Inv := by
  rw [h.rest]
  exact { hi with
    memWf := h.memWf hi.memWf
    labelLe := h.label hi.labelLe
    startAddrRange := fun hc => by
      rcases h.startAddr with hsame | ⟨_, hrange⟩
      · exact hsame ▸ hi.startAddrRange hc
      · exact hrange
    startAddrAbsent := fun hc => by
      rcases h.startAddr with hsame | ⟨hsome, _⟩
      · exact hsame.trans (hi.startAddrAbsent hc)
      · rw [show s.cfg.collab = none from hc] at hsome
        cases hsome }

theorem afterStartCode_keeps_inv {s : State} (hi : s.Inv) {f : Fsm}
    (hf : f = .dmxRecv ∨ f = .rdmRecv ∨ f = .idle) : (afterStartCode f s).Inv := by
  unfold afterStartCode
  split
  next h => exact hi.afterBreak h.1 h.2 hf
  next => exact hi

theorem exec_startCode_keeps_inv {i : Instr} {s t : State} (hi : s.Inv)
    (hsp : i.space = .startCode) (h : exec i s = .next t) : t.Inv := by
  cases i <;> try (cases hsp; done)
  case scDmx =>
    cases h
    exact afterStartCode_keeps_inv hi (.inl rfl)
  case scRdm =>
    cases h
    exact afterStartCode_keeps_inv hi (.inr (.inl rfl))
  case scOther b =>
    cases h
    exact afterStartCode_keeps_inv hi (.inr (.inr rfl))

/-! ### The break -/

theorem publishFrame_keeps_inv {s : State} (hi : s.Inv) : (publishFrame s).Inv :=
  { hi with frameCountLt := Nat.mod_lt _ (Nat.two_pow_pos _) }

/-- The return from the finalisation re-arms in input mode, interrupts deliverable (R302); the
suppression of the entry does not outlive it. -/
theorem leaveFinalisation_keeps_inv {s : State} (hi : s.Inv) (hm : s.mode = .input) :
    (leaveFinalisation (enterFinalisation s)).Inv :=
  { hi.moved (sequencerOk_brk (mode := s.mode) (by simp [hm])) with irqOff := rfl }

/-- The state in which a dispatch begins has the invariants. -/
theorem dispatchState_keeps_inv {s : State} (tDisp tResp : Nat) (hi : s.Inv)
    (hm : s.mode = .input) : (dispatchState tDisp tResp s).Inv := by
  have hseq := hi.moved (sequencerOk_idle (mode := s.mode) (by simp [hm]) hi.idxLe)
  have hlt (n : Nat) : n % 2 ^ s.cfg.timeW < 2 ^ s.cfg.timeW := Nat.mod_lt _ (Nat.two_pow_pos _)
  exact { hseq with
    irqOff := rfl
    t0Lt := hlt _
    nowLt := by
      unfold dispatchState
      dsimp only
      split
      · exact hlt _
      · exact hlt _ }

theorem exec_brk_keeps_inv {s t : State} {tDisp tResp : Nat} {during : List Byte} (hi : s.Inv)
    (h : exec (.brk tDisp tResp during) s = .next t) : t.Inv := by
  by_cases hm : s.mode = .input
  · obtain ⟨u, v, hdrain, _, rfl, harm⟩ := exec_brk_input hm h
    have hu : u.Inv := rxBytes_keeps_inv hi hdrain
    have hum : u.mode = .input := by rw [(rxBytes_eq_next hdrain).1, ← hm]
    rcases harm with ⟨_, rfl⟩ | ⟨_, rfl⟩ | ⟨_, hsizes, ⟨_, rfl⟩ | ⟨_, rfl⟩⟩
    case inl => exact leaveFinalisation_keeps_inv (publishFrame_keeps_inv hu) hum
    case inr.inl => exact leaveFinalisation_keeps_inv hu hum
    all_goals have hd : (dispatchState tDisp tResp u).Inv := dispatchState_keeps_inv _ _ hu hum
    · have hserved : Served (dispatchState tDisp tResp u)
          (runCommand (dispatchState tDisp tResp u)) := served_runCommand hsizes
      exact leaveFinalisation_keeps_inv (hserved.inv hd) (hserved.mode.trans hum)
    · exact leaveFinalisation_keeps_inv hd hum
  · rw [exec_brk_disarmed _ _ _ hm] at h
    cases h
    exact hi

/-! ### The other events -/

theorem exec_setMode_keeps_inv {s t : State} {m : Mode} (hi : s.Inv)
    (h : exec (.setMode m) s = .next t) : t.Inv := by
  cases m <;> cases h
  case off => exact { hi.moved (sequencerOk_idle (mode := .off) (by decide) (Nat.zero_le _)) with }
  case input =>
    exact { hi.moved (sequencerOk_idle (mode := .input) (by decide) (Nat.zero_le _)) with }
  case output => exact { hi.moved (sequencerOk_brk (mode := .output) (by decide)) with }

/-- Everything the pump can do when it sends: the start code, a slot, or the break (R161). -/
theorem exec_txdone_cases {s t : State} (h : exec .txdone s = .next t) :
    t = s ∨ s.mode = .output ∧
      (s.fsm = .brk ∧ t = sendStartCode s ∨
       s.fsm = .dmxTx ∧ (s.idx = 512 ∧ t = sendBreak s ∨
        s.idx < 512 ∧ t = { s.emit [.wr (s.peek s.idx)] with idx := s.idx + 1 })) := by
  change execTxdone s = _ at h
  unfold execTxdone sendSlot at h
  split at h
  case h_1 | h_2 =>
    cases h
    exact .inl rfl
  case h_3 hm =>
    refine Or.imp_right (⟨hm, ·⟩) ?_
    split at h
    case h_1 hf =>
      cases h
      exact .inr (.inl ⟨hf, rfl⟩)
    case h_2 hf =>
      split at h
      next hfull =>
        cases h
        exact .inr (.inr ⟨hf, .inl ⟨hfull, rfl⟩⟩)
      next =>
        split at h
        next hlt =>
          cases h
          exact .inr (.inr ⟨hf, .inr ⟨hlt, rfl⟩⟩)
        next => cases h
    all_goals
      cases h
      exact .inl rfl

theorem exec_txdone_keeps_inv {s t : State} (hi : s.Inv) (h : exec .txdone s = .next t) :
    t.Inv := by
  rcases exec_txdone_cases h with rfl | ⟨hm, ⟨hf, rfl⟩ | ⟨hf, ⟨_, rfl⟩ | ⟨hlt, rfl⟩⟩⟩
  · exact hi
  · have hseq := hi.moved (sequencerOk_tx hi.idxLe)
    rw [← hm] at hseq
    exact { hseq with }
  · exact { hi.moved (sequencerOk_brk (mode := s.mode) (by simp [hm])) with }
  · have hseq := hi.moved (sequencerOk_tx (idx := s.idx + 1) hlt)
    rw [← hm, ← hf] at hseq
    exact { hseq with }

theorem pokeBytes_buffer_keeps_inv {s : State} {bs : List Byte} (hi : s.Inv)
    (hbs : bs.length = 512) : (s.pokeBytes 0 bs).Inv := by
  refine { hi with memWf := Memory.wf_writeBytes hi.memWf ?_ }
  have := s.act_lt
  unfold State.actAddr
  omega

theorem exec_event_keeps_inv {i : Instr} {s t : State} (hi : s.Inv) (hsp : i.space = .event)
    (h : exec i s = .next t) : t.Inv := by
  cases i <;> try (cases hsp; done)
  case reset =>
    cases h
    exact { resetWith_inv hi.cfgWf hi.memWf s.draws with }
  case rxbyte b => exact rxByte_keeps_inv hi h
  case brk tDisp tResp during => exact exec_brk_keeps_inv hi h
  case txdone => exact exec_txdone_keeps_inv hi h
  case setMode m => exact exec_setMode_keeps_inv hi h
  case setChannel a v =>
    rcases exec_setChannel h with rfl | ⟨ha, rfl⟩
    · exact hi
    · exact { hi with memWf := Memory.wf_write v hi.memWf (s.actAddr_lt ha) }
  case setChannels start n vs =>
    obtain ⟨bs, hbs, rfl⟩ := exec_setChannels h
    exact pokeBytes_buffer_keeps_inv hi hbs
  case poll =>
    change execPoll s = _ at h
    unfold execPoll at h
    split at h
    · exact rxBytes_keeps_inv hi h
    · cases h
      exact hi
  all_goals
    cases h
    exact { hi with }

/-! ### Every operation, every step -/

theorem exec_keeps_inv {i : Instr} {s t : State} (hi : s.Inv) (h : exec i s = .next t) :
    t.Inv := by
  cases hsp : i.space with
  | startCode => exact exec_startCode_keeps_inv hi hsp h
  | rdmMsg => exact (exec_rdmMsg hsp h).2.inv hi
  | event => exact exec_event_keeps_inv hi hsp h

/-- Everything a step can do when it goes on: wait, receive bytes, or run the next event. -/
theorem step_cases {s t : State} (h : step s = .next t) :
    t = s ∨
    (∃ bs later, t = { s with inbox := later, rxq := s.rxq ++ bs }) ∨
    ∃ i later, exec i { s with inbox := later } = .next t := by
  rcases hin : s.inbox with _ | ⟨⟨bytes⟩ | ⟨bs⟩, later⟩
  · rw [step_waiting hin] at h
    cases h
    exact .inl rfl
  · cases hdec : decodePacket s.cfg bytes with
    | ok i => exact .inr (.inr ⟨i, later, by rwa [step_event hin hdec] at h⟩)
    | error e => simp [step, fetchAndRun, hin, hdec] at h
  · rw [step_arrive hin] at h
    cases h
    exact .inr (.inl ⟨bs, later, rfl⟩)

/-- Settles O52: waiting and arriving bytes touch no register of the invariant, and every operation
keeps it. -/
theorem stepKeepsTheInvariants : Obligations.StepKeepsTheInvariants := by
  unfold Obligations.StepKeepsTheInvariants
  intro s t hi h
  rcases step_cases h with rfl | ⟨bs, later, rfl⟩ | ⟨i, later, hexec⟩
  · exact hi
  · exact { hi with }
  · have hi' : ({ s with inbox := later } : State).Inv := { hi with }
    exact exec_keeps_inv hi' hexec

end Sys2Proof.Machine
end

section
/-! PROOFS. The order of the handler table (spec/10_state.md R35). -/

namespace Sys2Proof

/-- Settles O3: with distinct keys the linear scan finds exactly the entries of a table, and a
permutation has the same entries. -/
theorem handlerTableOrderIsUnobservable : Obligations.HandlerTableOrderIsUnobservable := by
  unfold Obligations.HandlerTableOrderIsUnobservable
  intro p table cc pid hdistinct hperm
  have hkeys : ((handlerTable p).map (·.1)).Nodup := rdmKeys_nodup hdistinct
  have hkeys' : (table.map (·.1)).Nodup := (hperm.map _).nodup_iff.mpr hkeys
  refine Option.ext fun h => ?_
  calc firstMatch cc pid table = some h
      ↔ ((cc, pid), h) ∈ table := firstMatch_eq_some hkeys'
    _ ↔ ((cc, pid), h) ∈ handlerTable p := hperm.mem_iff
    _ ↔ lookupHandler p cc pid = some h := (firstMatch_eq_some hkeys).symm

end Sys2Proof
end

section
/-! PROOFS. What no operation writes, and which operations write the mode, the roles, the frame
counter and the one-shot flags (spec/10_state.md R25, R27, R29, R34). One lemma says what every
operation can do to these registers; the statements are read off it. -/

namespace Sys2Proof.Machine

/-! ### The operations that neither configure, nor finalise, nor dispatch -/

/-- `t` is `s` but for registers that neither select what the engine does nor announce anything: the
mode, the roles, the frame counter and the parameters stay, flags are at most cleared, and nothing
is emitted outside output mode. -/
structure KeepsControl (s t : State) : Prop where
  cfg : t.cfg = s.cfg
  mode : t.mode = s.mode
  act : t.act = s.act
  frameCount : t.frameCount = s.frameCount
  newFrameFlag : t.newFrameFlag = true → s.newFrameFlag = true
  rdmChangedFlag : t.rdmChangedFlag = true → s.rdmChangedFlag = true
  out : s.mode ≠ .output → t.out = s.out

theorem KeepsControl.refl (s : State) : KeepsControl s s :=
  ⟨rfl, rfl, rfl, rfl, id, id, fun _ => rfl⟩

/-- Memory, queue, index and sequencer are none of the control registers. -/
theorem KeepsControl.of_reception {s t : State}
    (h : t = { s with mem := t.mem, rxq := t.rxq, idx := t.idx, fsm := t.fsm }) :
    KeepsControl s t := by
  rw [h]
  exact ⟨rfl, rfl, rfl, rfl, id, id, fun _ => rfl⟩

theorem rxBytes_keepsControl {bs : List Byte} {s t : State} (h : rxBytes bs s = .next t) :
    KeepsControl s t :=
  .of_reception (by rw [(rxBytes_eq_next h).1])

theorem exec_txdone_keepsControl {s t : State} (h : exec .txdone s = .next t) :
    KeepsControl s t := by
  obtain ⟨hrest, hdisarmed⟩ := exec_txdone h
  have hout : s.mode ≠ .output → t.out = s.out := fun hm => by rw [hdisarmed hm]
  rw [hrest]
  exact ⟨rfl, rfl, rfl, rfl, id, id, hout⟩

/-- `RXBYTE`, `TXDONE` and the calls of the application other than `setMode`. -/
theorem exec_event_keepsControl {i : Instr} {s t : State} (hsp : i.space = .event)
    (hreset : i ≠ .reset) (hmode : ∀ m, i ≠ .setMode m)
    (hbrk : ∀ tDisp tResp during, i = .brk tDisp tResp during → s.mode ≠ .input)
    (h : exec i s = .next t) : KeepsControl s t := by
  cases i <;> try (cases hsp; done)
  case reset => exact absurd rfl hreset
  case setMode m => exact absurd rfl (hmode m)
  case brk tDisp tResp during =>
    rw [exec_brk_disarmed _ _ _ (hbrk _ _ _ rfl)] at h
    cases h
    exact .refl s
  case rxbyte b => exact .of_reception (by rw [(rxByte_eq_next h).1])
  case txdone => exact exec_txdone_keepsControl h
  case poll => exact .of_reception (exec_poll h).1
  case setChannel a v =>
    rcases exec_setChannel h with rfl | ⟨_, rfl⟩
    · exact .refl t
    · exact .of_reception rfl
  case setChannels start n vs =>
    obtain ⟨bs, _, rfl⟩ := exec_setChannels h
    exact .of_reception rfl
  case newFrame =>
    cases h
    exact ⟨rfl, rfl, rfl, rfl, nofun, id, fun _ => rfl⟩
  case rdmChanged =>
    cases h
    exact ⟨rfl, rfl, rfl, rfl, id, nofun, fun _ => rfl⟩
  all_goals
    cases h
    exact ⟨rfl, rfl, rfl, rfl, id, id, fun _ => rfl⟩

/-- `setMode` writes the mode, re-arms the sequencer and emits (R271). -/
theorem exec_setMode {s t : State} {m : Mode} (h : exec (.setMode m) s = .next t) :
    t = { s with
      mode := m
      idx := t.idx
      fsm := t.fsm
      out := t.out
      lineTiming := t.lineTiming
      lineDir := t.lineDir } := by
  cases m <;> cases h <;> rfl

/-- Every operation is an RDM command, `RESET`, `setMode`, an armed break, or keeps the control
registers. -/
theorem exec_cases {i : Instr} {s t : State} (h : exec i s = .next t) :
    (i.space = .rdmMsg ∧ Served s t) ∨ i = .reset ∨ (∃ m, i = .setMode m) ∨
    (s.mode = .input ∧ ∃ tDisp tResp during, i = .brk tDisp tResp during) ∨
    KeepsControl s t := by
  cases hsp : i.space with
  | rdmMsg => exact .inl ⟨rfl, (exec_rdmMsg hsp h).2⟩
  | startCode =>
    refine .inr (.inr (.inr (.inr (.of_reception ?_))))
    rw [exec_startCode hsp h]
  | event =>
    by_cases hreset : i = .reset
    · exact .inr (.inl hreset)
    by_cases hmode : ∃ m, i = .setMode m
    · exact .inr (.inr (.inl hmode))
    by_cases hbrk : s.mode = .input ∧ ∃ tDisp tResp during, i = .brk tDisp tResp during
    · exact .inr (.inr (.inr (.inl hbrk)))
    · refine .inr (.inr (.inr (.inr (exec_event_keepsControl hsp hreset ?_ ?_ h))))
      · exact fun m hm => hmode ⟨m, hm⟩
      · exact fun tDisp tResp during hi hm => hbrk ⟨hm, tDisp, tResp, during, hi⟩

/-! ### The armed break -/

/-- An armed break drains, then publishes a DMX frame or does what an RDM command may do, and
re-arms; it writes neither the mode nor a parameter. -/
theorem exec_brk_control {s t : State} {tDisp tResp : Nat} {during : List Byte}
    (hm : s.mode = .input) (h : exec (.brk tDisp tResp during) s = .next t) :
    ∃ u, rxBytes s.rxq s = .next u ∧ t.cfg = s.cfg ∧ t.mode = s.mode ∧
      ((u.fsm = .dmxRecv ∨ u.fsm = .dmxComplete) ∧ t.act = 1 - s.act ∧
        t.frameCount = (s.frameCount + 1) % 2 ^ s.cfg.fcW ∧ t.newFrameFlag = true ∨
       t.act = s.act ∧ t.frameCount = s.frameCount ∧ t.newFrameFlag = s.newFrameFlag) := by
  obtain ⟨u, v, hdrain, _, rfl, harm⟩ := exec_brk_input hm h
  refine ⟨u, hdrain, ?_⟩
  have hkeep := rxBytes_keepsControl hdrain
  have hnew : u.newFrameFlag = s.newFrameFlag := by rw [(rxBytes_eq_next hdrain).1]
  rw [← hkeep.cfg, ← hkeep.mode, ← hkeep.act, ← hkeep.frameCount, ← hnew]
  rcases harm with ⟨hf, rfl⟩ | ⟨_, rfl⟩ | ⟨_, hsizes, ⟨_, rfl⟩ | ⟨_, rfl⟩⟩
  case inl => exact ⟨rfl, rfl, .inl ⟨hf, rfl, rfl, rfl⟩⟩
  case inr.inr.inl =>
    have hserved := served_runCommand (s := dispatchState tDisp tResp (enterFinalisation u)) hsizes
    rw [hserved.rest]
    exact ⟨rfl, rfl, .inr ⟨rfl, rfl, rfl⟩⟩
  all_goals exact ⟨rfl, rfl, .inr ⟨rfl, rfl, rfl⟩⟩

/-! ### Parameters, mode, publication -/

/-- Settles O55: each of the five kinds of operation keeps the parameters; `RESET` reads its values
from them and hands them on. -/
theorem parametersAreNeverWritten : Obligations.ParametersAreNeverWritten := by
  unfold Obligations.ParametersAreNeverWritten
  intro i s t h
  rcases exec_cases h with ⟨_, hserved⟩ | rfl | ⟨m, rfl⟩ | ⟨hm, tDisp, tResp, during, rfl⟩ | hkeep
  · exact hserved.cfg
  · cases h
    rfl
  · rw [exec_setMode h]
  · obtain ⟨_, _, hcfg, _⟩ := exec_brk_control hm h
    exact hcfg
  · exact hkeep.cfg

/-- Settles O59: a command and an armed break keep the mode, and the latter is not in mode off; what
keeps the control registers emits in output mode alone. -/
theorem onlySetModeChangesTheMode : Obligations.OnlySetModeChangesTheMode := by
  unfold Obligations.OnlySetModeChangesTheMode
  intro i s t h
  rcases exec_cases h with ⟨hsp, hserved⟩ | rfl | ⟨m, rfl⟩ | ⟨hm, tDisp, tResp, during, rfl⟩ | hkeep
  · exact ⟨fun hne => absurd hserved.mode hne, fun _ _ => .inl hsp⟩
  · cases h
    exact ⟨fun _ => .inl rfl, fun _ hne => absurd rfl hne⟩
  · exact ⟨fun _ => .inr ⟨m, rfl⟩, fun _ _ => .inr ⟨m, rfl⟩⟩
  · obtain ⟨_, _, _, hmode, _⟩ := exec_brk_control hm h
    refine ⟨fun hne => absurd hmode hne, fun hoff => ?_⟩
    rw [hm] at hoff
    cases hoff
  · refine ⟨fun hne => absurd hkeep.mode hne, fun hoff hne => ?_⟩
    exact absurd (hkeep.out (by simp [hoff])) hne

/-- Settles O57: of the operations that touch roles, counter or flag only the armed break does more
than clear the flag. -/
theorem onlyBreaksPublish : Obligations.OnlyBreaksPublish := by
  unfold Obligations.OnlyBreaksPublish
  intro i s t h hreset
  rcases exec_cases h with ⟨_, hserved⟩ | rfl | ⟨m, rfl⟩ | ⟨hm, tDisp, tResp, during, rfl⟩ | hkeep
  · refine .inl ⟨hserved.act, ?_, ?_⟩ <;> rw [hserved.rest]
    exact id
  · exact absurd rfl hreset
  · rw [exec_setMode h]
    exact .inl ⟨rfl, rfl, id⟩
  · obtain ⟨u, hdrain, _, _, ⟨hf, hact, hcount, hflag⟩ | ⟨hact, hcount, hflag⟩⟩ :=
      exec_brk_control hm h
    · rw [← execAll_rxbyte] at hdrain
      exact .inr ⟨hm, ⟨_, _, _, rfl⟩, ⟨u, hdrain, hf⟩, hact, hcount, hflag⟩
    · exact .inl ⟨hact, hcount, fun ht => hflag ▸ ht⟩
  · exact .inl ⟨hkeep.act, hkeep.frameCount, hkeep.newFrameFlag⟩

/-! ### "RDM changed" (R209) -/

/-- `Validate` leaves the flag to its continuation, or as it was. -/
theorem validate_rdmChangedFlag (ok : Byte → Bool) (k : State → State) (s : State) :
    (validate ok k s).rdmChangedFlag =
      if ok s.pdl = true ∧ s.subDevice = 0 then (k s).rdmChangedFlag else s.rdmChangedFlag := by
  split
  next h => rw [validate_ok h.1 h.2]
  next h =>
    obtain ⟨reason, hnack⟩ := validate_nack (ok := ok) (s := s) k (by
      rwa [not_and_or, Bool.not_eq_true] at h)
    rw [hnack]
    exact build_rdmChangedFlag _ s

theorem getHandler_rdmChangedFlag (data : State → List Byte) (s : State) :
    (getHandler data s).rdmChangedFlag = s.rdmChangedFlag := by
  unfold getHandler
  rw [validate_rdmChangedFlag, ackWith_rdmChangedFlag, ite_self]

theorem ackSet_rdmChangedFlag (s : State) : (ackSet s).rdmChangedFlag = true :=
  ackWith_rdmChangedFlag [] (raiseRdmChanged s)

theorem raiseNack_rdmChangedFlag (reason : Word16) (s : State) :
    (raiseNack reason s).rdmChangedFlag = s.rdmChangedFlag :=
  build_rdmChangedFlag _ s

theorem discUniqueBranch_rdmChangedFlag (s : State) :
    (discUniqueBranch s).rdmChangedFlag = s.rdmChangedFlag := by
  unfold discUniqueBranch
  split
  · rfl
  · split
    · rfl
    · split
      · rw [rawSend, State.emit_rdmChangedFlag, State.pokeBytes_rdmChangedFlag]
      · rfl

theorem discSetMute_rdmChangedFlag (m : Bool) (s : State) :
    (discSetMute m s).rdmChangedFlag = s.rdmChangedFlag := by
  unfold discSetMute
  split
  · rfl
  · exact ackWith_rdmChangedFlag _ (setMute m s)

theorem setIdentifyDevice_rdmChangedFlag (s : State) :
    (setIdentifyDevice s).rdmChangedFlag =
      (s.rdmChangedFlag || acceptsSet s .setIdentifyDevice) := by
  unfold setIdentifyDevice
  rw [validate_rdmChangedFlag, apply_ite State.rdmChangedFlag, raiseNack_rdmChangedFlag,
    ackSet_rdmChangedFlag]
  simp only [acceptsSet, decide_eq_true_eq]
  grind

theorem setDeviceLabel_rdmChangedFlag (s : State) :
    (setDeviceLabel s).rdmChangedFlag =
      (s.rdmChangedFlag || acceptsSet s .setDeviceLabel) := by
  unfold setDeviceLabel
  rw [validate_rdmChangedFlag, ackSet_rdmChangedFlag]
  simp only [acceptsSet, decide_eq_true_eq]
  grind

/-- The range check of the start address in the terms of `acceptsSet`. -/
theorem startAddr_outOfRange_iff (v : Word16) :
    (v = 0 ∨ Config.startAddrMax < v) ↔ ¬ (1 ≤ v.toNat ∧ v.toNat ≤ 512) := by
  have hzero : v = 0 ↔ v.toNat = 0 := by simp [← BitVec.toNat_inj]
  have hmax : Config.startAddrMax < v ↔ 512 < v.toNat := by simp [BitVec.lt_def]
  rw [hzero, hmax]
  omega

theorem setDmxStartAddress_rdmChangedFlag (s : State) :
    (setDmxStartAddress s).rdmChangedFlag =
      (s.rdmChangedFlag || acceptsSet s .setDmxStartAddress) := by
  unfold setDmxStartAddress
  rw [validate_rdmChangedFlag, apply_ite State.rdmChangedFlag, apply_ite State.rdmChangedFlag,
    raiseNack_rdmChangedFlag, raiseNack_rdmChangedFlag, ackSet_rdmChangedFlag]
  simp only [acceptsSet, decide_eq_true_eq, startAddr_outOfRange_iff]
  cases s.cfg.collab <;> grind

/-- A handler raises the flag exactly where it takes the ACK path of a SET. -/
theorem runHandler_rdmChangedFlag (h : Handler) (s : State) :
    (runHandler h s).rdmChangedFlag = (s.rdmChangedFlag || acceptsSet s h.instr) := by
  cases h
  case setIdentifyDevice => exact setIdentifyDevice_rdmChangedFlag s
  case setDeviceLabel => exact setDeviceLabel_rdmChangedFlag s
  case setDmxStartAddress => exact setDmxStartAddress_rdmChangedFlag s
  all_goals refine Eq.trans ?_ (Bool.or_false _).symm
  case discUniqueBranch => exact discUniqueBranch_rdmChangedFlag s
  case discMute => exact discSetMute_rdmChangedFlag true s
  case discUnMute => exact discSetMute_rdmChangedFlag false s
  case setSupportedParameters => exact raiseNack_rdmChangedFlag _ s
  all_goals exact getHandler_rdmChangedFlag _ s

/-- So does the command that a message's key selects. -/
theorem runCommand_rdmChangedFlag (s : State) :
    (runCommand s).rdmChangedFlag =
      (s.rdmChangedFlag || acceptsSet s (decodeRdmKey s.cfg s.commandClass s.paramId)) := by
  unfold runCommand decodeRdmKey
  cases lookupHandler s.cfg s.commandClass s.paramId with
  | some h => exact runHandler_rdmChangedFlag h s
  | none => exact (raiseNack_rdmChangedFlag _ s).trans (Bool.or_false _).symm

theorem exec_rdmMsg_rdmChangedFlag {i : Instr} {s t : State} (hsp : i.space = .rdmMsg)
    (h : exec i s = .next t) : t.rdmChangedFlag = (s.rdmChangedFlag || acceptsSet s i) := by
  rcases rdmMsg_eq_handler_or_nomatch hsp with ⟨k, rfl⟩ | ⟨cc, pid, rfl⟩
  · rw [exec_handler] at h
    obtain ⟨_, rfl⟩ := withinBounds_eq_next.mp h
    exact runHandler_rdmChangedFlag k s
  · obtain ⟨_, rfl⟩ := withinBounds_eq_next.mp (h : withinBounds (rdmNomatch cc pid) s = _)
    exact (raiseNack_rdmChangedFlag _ s).trans (Bool.or_false _).symm

theorem acceptsSet_rdmMsg {i : Instr} {s : State} (h : acceptsSet s i = true) :
    i.space = .rdmMsg := by
  cases i
  case setIdentifyDevice | setDeviceLabel | setDmxStartAddress => rfl
  all_goals cases h

/-- Whether a SET is accepted is read off the message and the parameters alone. -/
theorem acceptsSet_dispatchState (tDisp tResp : Nat) (s : State) (i : Instr) :
    acceptsSet (dispatchState tDisp tResp s) i = acceptsSet s i := by
  cases i <;> rfl

/-- Every operation but an armed break raises the flag exactly where it is an accepted SET. -/
theorem exec_rdmChangedFlag {i : Instr} {s t : State} (h : exec i s = .next t)
    (hbrk : ¬ (s.mode = .input ∧ ∃ tDisp tResp during, i = .brk tDisp tResp during))
    (hflag : s.rdmChangedFlag = false) : t.rdmChangedFlag = acceptsSet s i := by
  have hnot (hsp : i.space ≠ .rdmMsg) (ht : t.rdmChangedFlag = true → s.rdmChangedFlag = true) :
      t.rdmChangedFlag = acceptsSet s i := by
    rw [Bool.eq_false_iff.mpr fun e => hsp (acceptsSet_rdmMsg e), Bool.eq_false_iff]
    exact fun e => Bool.eq_false_iff.mp hflag (ht e)
  rcases exec_cases h with ⟨hsp, _⟩ | rfl | ⟨m, rfl⟩ | hb | hkeep
  · rw [exec_rdmMsg_rdmChangedFlag hsp h, hflag, Bool.false_or]
  · cases h
    rfl
  · exact hnot nofun (by rw [exec_setMode h]; exact id)
  · exact absurd hb hbrk
  · by_cases hsp : i.space = .rdmMsg
    · rw [exec_rdmMsg_rdmChangedFlag hsp h, hflag, Bool.false_or]
    · exact hnot hsp hkeep.rdmChangedFlag

/-- An armed break raises the flag exactly where it dispatches an accepted SET. -/
theorem exec_brk_rdmChangedFlag {s t : State} {tDisp tResp : Nat} {during : List Byte}
    (hm : s.mode = .input) (h : exec (.brk tDisp tResp during) s = .next t) :
    ∃ u, rxBytes s.rxq s = .next u ∧
      (t.rdmChangedFlag = true ↔ s.rdmChangedFlag = true ∨
        u.fsm = .rdmRecv ∧ u.accepted = true ∧
          acceptsSet u (decodeRdmKey u.cfg u.commandClass u.paramId) = true) := by
  obtain ⟨u, v, hdrain, _, rfl, harm⟩ := exec_brk_input hm h
  refine ⟨u, hdrain, ?_⟩
  have hflag : u.rdmChangedFlag = s.rdmChangedFlag := by rw [(rxBytes_eq_next hdrain).1]
  rw [← hflag, leaveFinalisation_rdmChangedFlag]
  rcases harm with ⟨hf, rfl⟩ | ⟨hf, rfl⟩ | ⟨hf, _, ⟨ha, rfl⟩ | ⟨ha, rfl⟩⟩
  · show u.rdmChangedFlag = true ↔ _
    rcases hf with hf | hf <;> simp [hf]
  · show u.rdmChangedFlag = true ↔ _
    rcases hf with hf | hf | hf <;> simp [hf]
  · have hrun := runCommand_rdmChangedFlag (dispatchState tDisp tResp u)
    rw [acceptsSet_dispatchState] at hrun
    change (runCommand (dispatchState tDisp tResp u)).rdmChangedFlag = true ↔ _
    rw [hrun, Bool.or_eq_true]
    simp only [hf, ha, true_and]
    rfl
  · show u.rdmChangedFlag = true ↔ _
    simp [ha]

/-- Settles O58: the armed break by the message that stands in the buffer after its drain, every
other operation by itself. -/
theorem onlySetsRaiseRdmChanged : Obligations.OnlySetsRaiseRdmChanged := by
  unfold Obligations.OnlySetsRaiseRdmChanged
  intro i s t h hflag
  by_cases hbrk : s.mode = .input ∧ ∃ tDisp tResp during, i = .brk tDisp tResp during
  · obtain ⟨hm, tDisp, tResp, during, rfl⟩ := hbrk
    obtain ⟨u, hdrain, hiff⟩ := exec_brk_rdmChangedFlag hm h
    rw [execAll_rxbyte, hdrain, hiff]
    simp [hflag, hm, acceptsSet]
  · rw [exec_rdmChangedFlag h hbrk hflag]
    refine ⟨.inl, fun hor => hor.resolve_right fun ⟨hm, hi, _⟩ => hbrk ⟨hm, hi⟩⟩

end Sys2Proof.Machine
end

section
/-! PROOFS. What R49 leaves unspecified at reset is never observed (spec/10_state.md R26, R44). The
receive path carries the four registers along; the dispatch overwrites both times; the line state
is overwritten by every burst, so that a response is the same whatever the line was in. -/

namespace Sys2Proof.Machine

/-! ### The line state and the RDM commands -/

/-- The transport's line registers, given other values. -/
def onLine (timing : Timing) (dir : Dir) (s : State) : State :=
  { s with lineTiming := timing, lineDir := dir }

section
variable (t0 now : Nat) (timing : Timing) (dir : Dir)

@[simp] theorem onLine_cfg (s : State) : (onLine timing dir s).cfg = s.cfg := rfl
@[simp] theorem onLine_mute (s : State) : (onLine timing dir s).mute = s.mute := rfl
@[simp] theorem onLine_peek (s : State) (k : Nat) : (onLine timing dir s).peek k = s.peek k := rfl
@[simp] theorem onLine_peek16 (s : State) (k : Nat) :
    (onLine timing dir s).peek16 k = s.peek16 k := rfl
@[simp] theorem onLine_pdl (s : State) : (onLine timing dir s).pdl = s.pdl := rfl
@[simp] theorem onLine_msgLength (s : State) :
    (onLine timing dir s).msgLength = s.msgLength := rfl
@[simp] theorem onLine_commandClass (s : State) :
    (onLine timing dir s).commandClass = s.commandClass := rfl
@[simp] theorem onLine_paramId (s : State) : (onLine timing dir s).paramId = s.paramId := rfl
@[simp] theorem onLine_branchLower (s : State) :
    (onLine timing dir s).branchLower = s.branchLower := rfl
@[simp] theorem onLine_branchUpper (s : State) :
    (onLine timing dir s).branchUpper = s.branchUpper := rfl
@[simp] theorem onLine_subDevice (s : State) : (onLine timing dir s).subDevice = s.subDevice := rfl
@[simp] theorem onLine_isForMe (s : State) : (onLine timing dir s).isForMe = s.isForMe := rfl

@[simp] theorem onLine_peekBytes (s : State) (k n : Nat) :
    (onLine timing dir s).peekBytes k n = s.peekBytes k n := rfl
@[simp] theorem onLine_timerActions (s : State) :
    timerActions (onLine timing dir s) = timerActions s := rfl

theorem poke_onLine (s : State) (k : Nat) (v : Byte) :
    (onLine timing dir s).poke k v = onLine timing dir (s.poke k v) := rfl
theorem pokeBytes_onLine (s : State) (k : Nat) (bs : List Byte) :
    (onLine timing dir s).pokeBytes k bs = onLine timing dir (s.pokeBytes k bs) := rfl
theorem poke16_onLine (s : State) (k : Nat) (v : Word16) :
    (onLine timing dir s).poke16 k v = onLine timing dir (s.poke16 k v) := rfl

/-- A burst sets the line itself: what the line was in before it leaves no trace. -/
theorem emit_burst_onLine (s : State) (wait : List Action) (breakTiming : Timing)
    (bs : List Byte) :
    (onLine timing dir s).emit (wait ++ burst breakTiming bs) =
      s.emit (wait ++ burst breakTiming bs) := by
  simp only [State.emit, onLine, timingAfter_append, dirAfter_append, timingAfter_burst,
    dirAfter_burst]

theorem header_onLine (kind : ReplyKind) (s : State) :
    header kind (onLine timing dir s) = onLine timing dir (header kind s) := by
  cases kind <;>
    simp only [header, setResponseType, setLength, swapAddresses, bumpCommandClass, poke_onLine,
      poke16_onLine, pokeBytes_onLine, onLine_peek, onLine_peekBytes, onLine_cfg]

theorem appendChecksum_onLine (s : State) :
    appendChecksum (onLine timing dir s) = onLine timing dir (appendChecksum s) := by
  simp only [appendChecksum, poke16_onLine, onLine_peek, onLine_peekBytes]

theorem build_onLine (kind : ReplyKind) (s : State) :
    build kind (onLine timing dir s) = build kind s := by
  rw [build_emit, build_emit, header_onLine, appendChecksum_onLine, onLine_timerActions,
    onLine_peekBytes, onLine_peek, emit_burst_onLine]

theorem raiseNack_onLine (reason : Word16) (s : State) :
    raiseNack reason (onLine timing dir s) = raiseNack reason s :=
  build_onLine timing dir _ s

theorem ackWith_onLine (data : List Byte) (s : State) :
    ackWith data (onLine timing dir s) = ackWith data s :=
  build_onLine timing dir .ack ((s.pokeBytes 23 data).poke 22 (BitVec.ofNat 8 data.length))

theorem validate_onLine {ok : Byte → Bool} {k k' : State → State} {s : State}
    (hk : k (onLine timing dir s) = k' s) :
    validate ok k (onLine timing dir s) = validate ok k' s := by
  simp only [validate, checkFormat, checkSubDevice, onLine_cfg, onLine_pdl, onLine_subDevice,
    raiseNack_onLine, hk]

theorem getHandler_onLine {data : State → List Byte} {s : State}
    (hd : data (onLine timing dir s) = data s) :
    getHandler data (onLine timing dir s) = getHandler data s :=
  validate_onLine timing dir (by rw [hd, ackWith_onLine])

theorem ackSet_onLine {s s' : State} (h : s' = onLine timing dir s) : ackSet s' = ackSet s := by
  subst h
  exact ackWith_onLine timing dir [] (raiseRdmChanged s)

theorem setIdentifyDevice_onLine (s : State) :
    setIdentifyDevice (onLine timing dir s) = setIdentifyDevice s :=
  validate_onLine timing dir (if_congr Iff.rfl (raiseNack_onLine timing dir _ s)
    (ackSet_onLine timing dir rfl))

theorem setDeviceLabel_onLine (s : State) :
    setDeviceLabel (onLine timing dir s) = setDeviceLabel s :=
  validate_onLine timing dir (ackSet_onLine timing dir rfl)

theorem setDmxStartAddress_onLine (s : State) :
    setDmxStartAddress (onLine timing dir s) = setDmxStartAddress s :=
  validate_onLine timing dir (if_congr Iff.rfl (raiseNack_onLine timing dir _ s)
    (if_congr Iff.rfl (raiseNack_onLine timing dir _ s) (ackSet_onLine timing dir rfl)))

theorem rawSend_onLine (s : State) : rawSend (onLine timing dir s) = rawSend s :=
  emit_burst_onLine timing dir s [] .discBrk _

/-- The first state is the second but for the line registers. -/
def SameButLine (a b : State) : Prop := ∃ timing dir, a = onLine timing dir b

theorem SameButLine.of_eq {a b : State} (h : a = b) : SameButLine a b :=
  ⟨b.lineTiming, b.lineDir, h⟩

/-- The discovery commands answer the same, or leave the line as they found it. -/
theorem discUniqueBranch_onLine (s : State) :
    SameButLine (discUniqueBranch (onLine timing dir s)) (discUniqueBranch s) := by
  have hdrop : SameButLine (onLine timing dir s) s := ⟨timing, dir, rfl⟩
  unfold discUniqueBranch raiseDrop
  rw [onLine_mute, onLine_msgLength, onLine_pdl, onLine_branchLower, onLine_branchUpper,
    onLine_cfg, pokeBytes_onLine, rawSend_onLine]
  split
  · exact hdrop
  · split
    · exact hdrop
    · split
      · exact .of_eq rfl
      · exact hdrop

theorem discSetMute_onLine (m : Bool) (s : State) :
    SameButLine (discSetMute m (onLine timing dir s)) (discSetMute m s) := by
  have hmute : setMute m (onLine timing dir s) = onLine timing dir (setMute m s) := rfl
  unfold discSetMute raiseDrop
  rw [onLine_isForMe, onLine_pdl, hmute, ackWith_onLine]
  split
  · exact ⟨timing, dir, rfl⟩
  · exact .of_eq rfl

/-- No command observes the line state. -/
theorem runHandler_onLine (h : Handler) (s : State) :
    SameButLine (runHandler h (onLine timing dir s)) (runHandler h s) := by
  cases h <;> simp only [runHandler]
  case discUniqueBranch => exact discUniqueBranch_onLine timing dir s
  case discMute => exact discSetMute_onLine timing dir true s
  case discUnMute => exact discSetMute_onLine timing dir false s
  case setIdentifyDevice => exact .of_eq (setIdentifyDevice_onLine timing dir s)
  case setDeviceLabel => exact .of_eq (setDeviceLabel_onLine timing dir s)
  case setDmxStartAddress => exact .of_eq (setDmxStartAddress_onLine timing dir s)
  case setSupportedParameters => exact .of_eq (raiseNack_onLine timing dir _ s)
  all_goals exact .of_eq (getHandler_onLine timing dir rfl)

theorem runCommand_onLine (s : State) :
    SameButLine (runCommand (onLine timing dir s)) (runCommand s) := by
  unfold runCommand
  rw [onLine_cfg, onLine_commandClass, onLine_paramId]
  cases lookupHandler s.cfg s.commandClass s.paramId with
  | some h => exact runHandler_onLine timing dir h s
  | none => exact .of_eq (raiseNack_onLine timing dir _ s)

/-! ### The receive path and the break -/

@[simp] theorem withUnspecified_mode (s : State) :
    (withUnspecified t0 now timing dir s).mode = s.mode := rfl
@[simp] theorem withUnspecified_fsm (s : State) :
    (withUnspecified t0 now timing dir s).fsm = s.fsm := rfl
@[simp] theorem withUnspecified_idx (s : State) :
    (withUnspecified t0 now timing dir s).idx = s.idx := rfl
@[simp] theorem withUnspecified_rxq (s : State) :
    (withUnspecified t0 now timing dir s).rxq = s.rxq := rfl

theorem rxByte_withUnspecified (b : Byte) (s : State) :
    rxByte b (withUnspecified t0 now timing dir s) =
      mapNext (withUnspecified t0 now timing dir) (rxByte b s) := by
  by_cases hm : s.mode = .input
  · cases hf : s.fsm with
    | brk => rw [rxByte_start b hm hf, rxByte_start b (by exact hm) (by exact hf)]; rfl
    | dmxRecv | rdmRecv =>
      have hr : s.fsm = .dmxRecv ∨ s.fsm = .rdmRecv := by simp [hf]
      rcases Nat.lt_or_ge s.idx 512 with hlt | hge
      · rw [rxByte_store b hm hr hlt, rxByte_store b (by exact hm) (by exact hr) (by exact hlt)]
        rfl
      · rw [rxByte_fault b hm hr hge, rxByte_fault b (by exact hm) (by exact hr) (by exact hge)]
        rfl
    | idle | dmxComplete | dmxTx =>
      have hd : s.fsm ≠ .brk ∧ s.fsm ≠ .dmxRecv ∧ s.fsm ≠ .rdmRecv := by simp [hf]
      rw [rxByte_drop b (.inr hd), rxByte_drop b (.inr (by exact hd))]
      rfl
  · rw [rxByte_drop b (.inl hm), rxByte_drop b (.inl (by exact hm))]
    rfl

theorem rxBytes_withUnspecified (bs : List Byte) (s : State) :
    rxBytes bs (withUnspecified t0 now timing dir s) =
      mapNext (withUnspecified t0 now timing dir) (rxBytes bs s) := by
  induction bs generalizing s with
  | nil => rfl
  | cons b bs ih =>
    simp only [rxBytes_cons, rxByte_withUnspecified, andThen_mapNext, mapNext_andThen, ih]

theorem blotted_mapNext (r : Result) :
    blotted (mapNext (withUnspecified t0 now timing dir) r) = blotted r := by
  cases r <;> rfl

theorem SameButLine.blotted_eq {a b : State} (h : SameButLine a b) :
    blotted (.next a) = blotted (.next b) := by
  obtain ⟨timing, dir, rfl⟩ := h
  rfl

theorem SameButLine.enterFinalisation {a b : State} (h : SameButLine a b) :
    SameButLine (enterFinalisation a) (enterFinalisation b) := by
  obtain ⟨timing, dir, rfl⟩ := h
  exact ⟨timing, dir, rfl⟩

/-- The return from the finalisation looks at none of the four registers. -/
theorem blotted_leaveFinalisation {r r' : Result} (h : blotted r = blotted r') :
    blotted (andThen r fun v => .next (leaveFinalisation v)) =
      blotted (andThen r' fun v => .next (leaveFinalisation v)) := by
  have hfactor (r : Result) : blotted (andThen r fun v => .next (leaveFinalisation v)) =
      mapNext leaveFinalisation (blotted r) := by
    cases r <;> rfl
  rw [hfactor, hfactor, h]

/-- A dispatch overwrites both times, so only the line state is left of the four registers. -/
theorem dispatchState_withUnspecified (tDisp tResp : Nat) (s : State) :
    dispatchState tDisp tResp (withUnspecified t0 now timing dir s) =
      onLine timing dir (dispatchState tDisp tResp s) := rfl

theorem finalise_withUnspecified (tDisp tResp : Nat) (during : List Byte) {s : State}
    (hq : s.rxq = []) :
    blotted (finalise tDisp tResp during (withUnspecified t0 now timing dir s)) =
      blotted (finalise tDisp tResp during s) := by
  cases hf : s.fsm with
  | dmxRecv | dmxComplete =>
    rw [finalise_publish _ _ _ (by simp [hf]), finalise_publish _ _ _ (by simp [hf])]
    rfl
  | idle | brk | dmxTx =>
    rw [finalise_idle _ _ _ (by simp [hf]), finalise_idle _ _ _ (by simp [hf])]
    rfl
  | rdmRecv =>
    cases hs : s.sizesOk with
    | false => rw [finalise_refused _ _ _ hf hs, finalise_refused _ _ _ (by exact hf) (by exact hs)]
    | true =>
      rw [finalise_dispatch _ _ _ hf hq hs,
        finalise_dispatch _ _ _ (by exact hf) (by exact hq) (by exact hs),
        dispatchState_withUnspecified]
      refine SameButLine.blotted_eq (.enterFinalisation ?_)
      change SameButLine (if s.accepted then _ else _) _
      split
      · exact runCommand_onLine timing dir _
      · exact ⟨timing, dir, rfl⟩

theorem breakDetected_withUnspecified (tDisp tResp : Nat) (during : List Byte) (s : State) :
    blotted (breakDetected tDisp tResp during (withUnspecified t0 now timing dir s)) =
      blotted (breakDetected tDisp tResp during s) := by
  by_cases hm : s.mode = .input
  · rw [breakDetected_input _ _ _ hm, breakDetected_input _ _ _ (by exact hm), withUnspecified_rxq,
      rxBytes_withUnspecified, andThen_mapNext]
    cases hdrain : rxBytes s.rxq s with
    | fault f => rfl
    | refused e => rfl
    | next u =>
      have hq : u.rxq = [] := by
        rw [(rxBytes_eq_next hdrain).1]
        simp
      exact blotted_leaveFinalisation
        (finalise_withUnspecified t0 now timing dir tDisp tResp during
          (s := enterFinalisation u) hq)
  · unfold breakDetected
    rw [if_neg hm, if_neg (by exact hm)]
    rfl

/-! ### The other events -/

theorem execPoll_withUnspecified (s : State) :
    blotted (execPoll (withUnspecified t0 now timing dir s)) = blotted (execPoll s) := by
  unfold execPoll drain
  rw [withUnspecified_mode, withUnspecified_rxq, rxBytes_withUnspecified]
  split
  · exact blotted_mapNext t0 now timing dir _
  · rfl

theorem sendSlot_withUnspecified (s : State) :
    blotted (sendSlot (withUnspecified t0 now timing dir s)) = blotted (sendSlot s) := by
  unfold sendSlot
  rw [withUnspecified_idx]
  split <;> rfl

theorem execTxdone_withUnspecified (s : State) :
    blotted (execTxdone (withUnspecified t0 now timing dir s)) = blotted (execTxdone s) := by
  unfold execTxdone
  rw [withUnspecified_mode, withUnspecified_fsm, withUnspecified_idx]
  cases s.mode with
  | off | input => rfl
  | output =>
    cases s.fsm with
    | dmxTx =>
      dsimp only
      split
      · rfl
      · exact sendSlot_withUnspecified t0 now timing dir s
    | brk | idle | dmxRecv | rdmRecv | dmxComplete => rfl

end

/-- Settles O60: the receive path and the break by the laws above; every other event copies the four
registers or overwrites them. -/
theorem unspecifiedRegistersAreNeverObserved :
    Obligations.UnspecifiedRegistersAreNeverObserved := by
  unfold Obligations.UnspecifiedRegistersAreNeverObserved
  intro i s t0 now timing dir hsp
  cases i <;> try (cases hsp; done)
  case rxbyte b =>
    change blotted (rxByte b _) = blotted (rxByte b s)
    rw [rxByte_withUnspecified, blotted_mapNext]
  case brk tDisp tResp during =>
    exact breakDetected_withUnspecified t0 now timing dir tDisp tResp during s
  case txdone => exact execTxdone_withUnspecified t0 now timing dir s
  case poll => exact execPoll_withUnspecified t0 now timing dir s
  case setMode m => cases m <;> rfl
  case setChannel a v =>
    change blotted (execSetChannel a v _) = blotted (execSetChannel a v s)
    unfold execSetChannel
    split <;> rfl
  case setChannels start n vs =>
    change blotted (execSetChannels start n vs _) = blotted (execSetChannels start n vs s)
    unfold execSetChannels
    split <;> rfl
  all_goals rfl

end Sys2Proof.Machine
end

section
/-! PROOFS. The statements of spec/20_memory.md: the swap of the buffers and what each then holds
(R63, R64), the one-shot flags (R75), no operation writes the inactive buffer (R72), and no event
leaves the frame memory (R71). -/

namespace Sys2Proof

/-! ### The count of a decoded `setChannels` (U9) -/

/-- The decoder takes as many bytes for a `setChannels` as its count says (U9). -/
theorem decodeSetChannels_count {bs rest vs : List Byte} {start n : Word16}
    (h : decodeSetChannels bs = .ok (.setChannels start n vs, rest)) : n.toNat = vs.length := by
  unfold decodeSetChannels at h
  split at h
  · split at h
    next htake =>
      cases h
      exact (takeBytes_eq_ok htake).1.symm
    next => cases h
  · cases h

theorem decodeBrk_eq_ok {p : Params} {bs rest : List Byte} {i : Instr}
    (h : decodeBrk p bs = .ok (i, rest)) : ∃ tDisp tResp during, i = .brk tDisp tResp during := by
  unfold decodeBrk at h
  split at h
  · cases h
  · split at h
    · cases h
    · split at h
      · cases h
      · cases h
        exact ⟨_, _, _, rfl⟩

theorem decodeSetMode_eq_ok {bs rest : List Byte} {i : Instr}
    (h : decodeSetMode bs = .ok (i, rest)) : ∃ m, i = .setMode m := by
  unfold decodeSetMode at h
  split at h
  · split at h
    · cases h
      exact ⟨_, rfl⟩
    · cases h
  · cases h

theorem decodeSetChannel_eq_ok {bs rest : List Byte} {i : Instr}
    (h : decodeSetChannel bs = .ok (i, rest)) : ∃ a v, i = .setChannel a v := by
  unfold decodeSetChannel at h
  split at h
  · cases h
    exact ⟨_, _, rfl⟩
  · cases h

/-- Of the selectors of R111 only that of `setChannels` gives one. -/
theorem decodeEvent_setChannels_count {p : Params} {bs rest vs : List Byte} {start n : Word16}
    (h : decodeEvent p bs = .ok (.setChannels start n vs, rest)) : n.toNat = vs.length := by
  unfold decodeEvent at h
  split at h
  · cases h
  · split at h
    case h_2 => split at h <;> cases h
    case h_3 => exact nomatch decodeBrk_eq_ok h
    case h_5 => exact nomatch decodeSetMode_eq_ok h
    case h_6 => exact nomatch decodeSetChannel_eq_ok h
    case h_7 => exact decodeSetChannels_count h
    all_goals cases h

theorem decodePacket_setChannels_count {p : Params} {bs vs : List Byte} {start n : Word16}
    (h : decodePacket p bs = .ok (.setChannels start n vs)) : n.toNat = vs.length := by
  unfold decodePacket at h
  split at h
  case h_1 i hdec =>
    cases h
    exact decodeEvent_setChannels_count hdec
  all_goals cases h

end Sys2Proof

namespace Sys2Proof.Machine

/-! ### The break that publishes a DMX frame (R63, R140) -/

/-- An armed break after whose drain a DMX frame is in progress or complete publishes it and
re-arms; the suppression of the entry does not outlive it. -/
theorem exec_brk_publishes {s u : State} (tDisp tResp : Nat) (during : List Byte)
    (hm : s.mode = .input) (hdrain : rxBytes s.rxq s = .next u)
    (hf : u.fsm = .dmxRecv ∨ u.fsm = .dmxComplete) :
    exec (.brk tDisp tResp during) s = .next (leaveFinalisation (publishFrame u)) := by
  have hfin : finalise tDisp tResp during (enterFinalisation u) =
      .next (publishFrame (enterFinalisation u)) := finalise_publish tDisp tResp during hf
  calc exec (.brk tDisp tResp during) s
      = breakDetected tDisp tResp during s := rfl
    _ = .next (leaveFinalisation (publishFrame (enterFinalisation u))) := by
      rw [breakDetected_input tDisp tResp during hm, hdrain, andThen_next, hfin, andThen_next]
    _ = .next (leaveFinalisation (publishFrame u)) := rfl

/-- Settles O13: nothing is left to drain, so the frame in progress is the one published. -/
theorem breakPublishesTheFrame : Obligations.BreakPublishesTheFrame := by
  unfold Obligations.BreakPublishesTheFrame
  intro s tDisp tResp during hm hf hq
  have hdrain : rxBytes s.rxq s = .next s := by rw [hq, rxBytes_nil]
  exact exec_brk_publishes tDisp tResp during hm hdrain hf

/-! ### A short frame and the old content of its buffer (R64, R341) -/

/-- The bytes of a queued DMX frame that fits are stored from offset 0 in order, and the frame is
then in progress or complete. -/
theorem rxBytes_dmxFrame {s : State} {data : List Byte} (hm : s.mode = .input)
    (hf : s.fsm = .brk) (hi : s.idx = 0) (hlen : data.length ≤ 512) :
    ∃ u, rxBytes (0x00 :: data) s = .next u ∧ (u.fsm = .dmxRecv ∨ u.fsm = .dmxComplete) ∧
      u.act = s.act ∧ u.mem = s.mem.writeBytes (s.actAddr 0) data := by
  rw [rxBytes_cons, rxByte_start _ hm hf, andThen_next]
  rcases data.length.eq_zero_or_pos with hnil | hpos
  · rw [List.length_eq_zero_iff] at hnil
    subst hnil
    exact ⟨_, rfl, .inl rfl, rfl, rfl⟩
  · rw [rxBytes_frame (by exact hm) (.inl rfl) (by simpa [hi] using hlen) hpos]
    refine ⟨_, rfl, ?_, rfl, by rw [← hi]; rfl⟩
    dsimp only
    split
    · exact .inr rfl
    · exact .inl rfl

/-- Writing fewer bytes than are read back leaves the rest as it was. -/
theorem Memory.readBytes_writeBytes_shorter (m : Memory) (a n : Nat) {bs : List Byte}
    (h : bs.length ≤ n) :
    (m.writeBytes a bs).readBytes a n =
      bs ++ m.readBytes (a + bs.length) (n - bs.length) := by
  calc (m.writeBytes a bs).readBytes a n
      = (m.writeBytes a bs).readBytes a (bs.length + (n - bs.length)) := by
        rw [Nat.add_sub_cancel' h]
    _ = bs ++ m.readBytes (a + bs.length) (n - bs.length) := by
        rw [Memory.readBytes_add, Memory.readBytes_writeBytes_same,
          Memory.readBytes_writeBytes_disjoint _ _ _ _ _ (.inr le_rfl)]

/-- What is written to the active buffer leaves the inactive one as it was. -/
theorem State.readBytes_inactive_writeBytes (s : State) {bs : List Byte}
    (h : bs.length ≤ 512) :
    (s.mem.writeBytes (s.actAddr 0) bs).readBytes (s.inactAddr 0) 512 =
      s.mem.readBytes (s.inactAddr 0) 512 := by
  refine Memory.readBytes_writeBytes_disjoint _ _ _ _ _ ?_
  have := s.act_lt
  unfold State.actAddr State.inactAddr
  omega

theorem exec_getBuffer (s : State) :
    exec .getBuffer s = .next { s with
      returned := s.returned ++ [.bytes (s.mem.readBytes (s.inactAddr 0) 512)] } := rfl

/-- Settles O19: the frame is stored over the old content of the active buffer, then the swap
exchanges the addresses of the two buffers. -/
theorem shortFramePublishesStaleTail : Obligations.ShortFramePublishesStaleTail := by
  unfold Obligations.ShortFramePublishesStaleTail
  intro s data tDisp tResp during hm hf hi hlen hq
  obtain ⟨u, hdrain, huf, huact, humem⟩ := rxBytes_dmxFrame hm hf hi hlen
  rw [← hq] at hdrain
  have hact : (leaveFinalisation (publishFrame u)).act = 1 - s.act := by
    rw [← huact]
    rfl
  have hmem : (leaveFinalisation (publishFrame u)).mem =
      s.mem.writeBytes (s.actAddr 0) data := humem
  obtain ⟨hinact, hactive⟩ := addresses_of_swap hact 0
  refine ⟨_, exec_brk_publishes tDisp tResp during hm hdrain huf, hact, ?published, ?previous⟩
  case published =>
    rw [exec_getBuffer, hmem, hinact, Memory.readBytes_writeBytes_shorter _ _ _ hlen,
      State.peekBytes, s.actAddr_eq data.length]
  case previous =>
    rw [State.peekBytes, hmem, hactive, s.readBytes_inactive_writeBytes hlen]

/-! ### The one-shot flags (R75, R275, R276) -/

theorem exec_newFrame (s : State) :
    exec .newFrame s = .next { s with
      newFrameFlag := false, returned := s.returned ++ [.bool s.newFrameFlag] } := rfl

theorem exec_rdmChanged (s : State) :
    exec .rdmChanged s = .next { s with
      rdmChangedFlag := false, returned := s.returned ++ [.bool s.rdmChangedFlag] } := rfl

/-- Settles O49: the second call finds the flag the first one cleared. -/
theorem flagReadsTestAndClear : Obligations.FlagReadsTestAndClear := by
  unfold Obligations.FlagReadsTestAndClear
  intro s
  refine ⟨exec_newFrame s, exec_rdmChanged s, ?_, ?_⟩
  · simp only [execAll, exec_newFrame, andThen_next, List.append_assoc, List.singleton_append]
  · simp only [execAll, exec_rdmChanged, andThen_next, List.append_assoc, List.singleton_append]

/-! ### No operation writes outside the active buffer (R61, R72, R73) -/

/-- Between `s` and `t` memory was written in the buffer active in `s` alone. -/
def WritesActiveOnly (s t : State) : Prop :=
  ∀ a, (∀ k, k < 512 → a ≠ s.actAddr k) → t.mem.read a = s.mem.read a

theorem WritesActiveOnly.of_mem {s t : State} (h : t.mem = s.mem) : WritesActiveOnly s t :=
  fun a _ => congrArg (·.read a) h

theorem WritesActiveOnly.trans {s t u : State} (h : WritesActiveOnly s t)
    (k : WritesActiveOnly t u) (hact : t.act = s.act) : WritesActiveOnly s u := by
  intro a ha
  have ha' : ∀ k, k < 512 → a ≠ t.actAddr k := by
    simpa only [State.actAddr, hact] using ha
  rw [k a ha', h a ha]

/-- The inactive buffer keeps its bytes. -/
theorem WritesActiveOnly.read_inactAddr {s t : State} (h : WritesActiveOnly s t) {k : Nat}
    (hk : k < 512) : t.mem.read (s.inactAddr k) = s.mem.read (s.inactAddr k) :=
  h _ fun _ hj => s.inactAddr_ne_actAddr hk hj

theorem writesActiveOnly_poke {s : State} {k : Nat} (v : Byte) (hk : k < 512) :
    WritesActiveOnly s (s.poke k v) :=
  fun _ ha => State.read_poke_outside v (ha k hk)

/-- Writing at most the first 512 bytes from the active buffer's start is writing inside it. -/
theorem WritesActiveOnly.of_frame {s t : State} {n : Nat} (hn : n ≤ 512)
    (h : ∀ a, a < s.actAddr 0 ∨ s.actAddr n ≤ a → t.mem.read a = s.mem.read a) :
    WritesActiveOnly s t := by
  intro a ha
  refine h a ?_
  by_contra hin
  rw [s.actAddr_eq n] at hin
  refine ha (a - s.actAddr 0) (by omega) ?_
  rw [s.actAddr_eq (a - s.actAddr 0)]
  omega

theorem writesActiveOnly_pokeBytes {s : State} {bs : List Byte} (hbs : bs.length ≤ 512) :
    WritesActiveOnly s (s.pokeBytes 0 bs) :=
  .of_frame hbs fun _ ha => State.read_pokeBytes_outside (by rwa [Nat.zero_add])

/-- A command touches the first 256 bytes of the active buffer at most. -/
theorem Served.writesActiveOnly {s t : State} (h : Served s t) : WritesActiveOnly s t :=
  .of_frame (by decide) h.memory

/-- A break stores the queued bytes and the response in the buffer that is active when it comes;
publishing moves no byte. -/
theorem exec_brk_writesActiveOnly {s t : State} {tDisp tResp : Nat} {during : List Byte}
    (h : exec (.brk tDisp tResp during) s = .next t) : WritesActiveOnly s t := by
  by_cases hm : s.mode = .input
  · obtain ⟨u, v, hdrain, _, rfl, harm⟩ := exec_brk_input hm h
    obtain ⟨hrest, hstored⟩ := rxBytes_eq_next hdrain
    refine WritesActiveOnly.trans hstored ?_ (by rw [hrest])
    rcases harm with ⟨_, rfl⟩ | ⟨_, rfl⟩ | ⟨_, hsizes, ⟨_, rfl⟩ | ⟨_, rfl⟩⟩
    case inr.inr.inl =>
      have hserved : Served (dispatchState tDisp tResp (enterFinalisation u))
        (runCommand (dispatchState tDisp tResp (enterFinalisation u))) := served_runCommand hsizes
      exact hserved.writesActiveOnly
    all_goals exact .of_mem rfl
  · rw [exec_brk_disarmed _ _ _ hm] at h
    cases h
    exact .of_mem rfl

theorem exec_event_writesActiveOnly {i : Instr} {s t : State} (hsp : i.space = .event)
    (h : exec i s = .next t) : WritesActiveOnly s t := by
  cases i <;> try (cases hsp; done)
  case rxbyte b => exact (rxByte_eq_next h).2
  case brk tDisp tResp during => exact exec_brk_writesActiveOnly h
  case txdone => exact .of_mem (by rw [(exec_txdone h).1])
  case setMode m => exact .of_mem (by rw [exec_setMode h])
  case setChannel a v =>
    rcases exec_setChannel h with rfl | ⟨ha, rfl⟩
    · exact .of_mem rfl
    · exact writesActiveOnly_poke v ha
  case setChannels start n vs =>
    obtain ⟨bs, hbs, rfl⟩ := exec_setChannels h
    exact writesActiveOnly_pokeBytes hbs.le
  case poll => exact (exec_poll h).2
  all_goals
    cases h
    exact .of_mem rfl

/-- Every operation writes memory in the buffer that is active when it begins, and nowhere else. -/
theorem exec_writesActiveOnly {i : Instr} {s t : State} (h : exec i s = .next t) :
    WritesActiveOnly s t := by
  cases hsp : i.space with
  | startCode => exact .of_mem (by rw [exec_startCode hsp h])
  | rdmMsg => exact (exec_rdmMsg hsp h).2.writesActiveOnly
  | event => exact exec_event_writesActiveOnly hsp h

/-- Settles O56: what an operation writes lies in the active buffer, and roles that stay keep the
addresses of the inactive one. -/
theorem inactiveBufferIsNeverWritten : Obligations.InactiveBufferIsNeverWritten := by
  unfold Obligations.InactiveBufferIsNeverWritten
  intro i s t _ h hact k hk
  have haddr : t.inactAddr k = s.inactAddr k := by rw [State.inactAddr, hact, State.inactAddr]
  rw [State.peekInactive, haddr, (exec_writesActiveOnly h).read_inactAddr hk, State.peekInactive]

/-! ### From a state with the invariants every event goes on (R71, R290) -/

theorem State.Inv.sizesOk {s : State} (hi : s.Inv) : s.sizesOk = true := by
  have hwf := hi.cfgWf
  simp only [Params.wf, Bool.and_eq_true] at hwf
  obtain ⟨⟨⟨⟨_, hsizes⟩, _⟩, _⟩, _⟩ := hwf
  simp [State.sizesOk, hsizes, hi.labelLe]

/-- The index of a frame in progress is a buffer offset, so a received byte never faults. -/
theorem rxByte_goes_on {s : State} (hi : s.Inv) (b : Byte) : ∃ t, rxByte b s = .next t := by
  by_cases hm : s.mode = .input
  · by_cases hb : s.fsm = .brk
    · exact ⟨_, rxByte_start b hm hb⟩
    · by_cases hr : s.fsm = .dmxRecv ∨ s.fsm = .rdmRecv
      · have hlt : s.idx < 512 := Nat.lt_succ_of_le (hi.recvIdx hr)
        exact ⟨_, rxByte_store b hm hr hlt⟩
      · exact ⟨_, rxByte_drop b (.inr ⟨hb, not_or.mp hr⟩)⟩
  · exact ⟨_, rxByte_drop b (.inl hm)⟩

theorem rxBytes_goes_on {s : State} (hi : s.Inv) (bs : List Byte) :
    ∃ t, rxBytes bs s = .next t := by
  induction bs generalizing s with
  | nil => exact ⟨s, rfl⟩
  | cons b bs ih =>
    obtain ⟨u, hb⟩ := rxByte_goes_on hi b
    obtain ⟨t, hbs⟩ := ih (rxByte_keeps_inv hi hb)
    exact ⟨t, by rw [rxBytes_cons, hb, andThen_next, hbs]⟩

/-- Within the bounds every arm of the finalisation goes on. -/
theorem finalise_goes_on {s : State} (tDisp tResp : Nat) (during : List Byte)
    (hs : s.sizesOk = true) (hq : s.rxq = []) :
    ∃ t, finalise tDisp tResp during s = .next t := by
  cases hf : s.fsm with
  | dmxRecv | dmxComplete => exact ⟨_, finalise_publish tDisp tResp during (by simp [hf])⟩
  | rdmRecv => exact ⟨_, finalise_dispatch tDisp tResp during hf hq hs⟩
  | idle | brk | dmxTx => exact ⟨_, finalise_idle tDisp tResp during (by simp [hf])⟩

theorem exec_brk_goes_on {s : State} (hi : s.Inv) (tDisp tResp : Nat) (during : List Byte) :
    ∃ t, exec (.brk tDisp tResp during) s = .next t := by
  by_cases hm : s.mode = .input
  · obtain ⟨u, hdrain⟩ := rxBytes_goes_on hi s.rxq
    have hu : u.Inv := rxBytes_keeps_inv hi hdrain
    have hq : u.rxq = [] := by
      rw [(rxBytes_eq_next hdrain).1]
      simp
    obtain ⟨v, hfin⟩ :=
      finalise_goes_on (s := enterFinalisation u) tDisp tResp during hu.sizesOk hq
    refine ⟨leaveFinalisation v, ?_⟩
    change breakDetected tDisp tResp during s = _
    rw [breakDetected_input tDisp tResp during hm, hdrain, andThen_next, hfin, andThen_next]
  · exact ⟨s, exec_brk_disarmed tDisp tResp during hm⟩

/-- The index of a transmitted frame is a buffer offset or the end of the buffer. -/
theorem exec_txdone_goes_on {s : State} (hi : s.Inv) : ∃ t, exec .txdone s = .next t := by
  by_cases hslot : s.mode = .output ∧ s.fsm = .dmxTx ∧ s.idx ≠ 512
  · obtain ⟨hm, hf, hne⟩ := hslot
    have hlt : s.idx < 512 := lt_of_le_of_ne hi.idxLe hne
    exact ⟨_, by rw [exec_txdone_slot hm hf hne, sendSlot, if_pos hlt]⟩
  · change ∃ t, execTxdone s = .next t
    unfold execTxdone
    split
    case h_3 hm =>
      split
      case h_2 hf =>
        have hfull : s.idx = 512 := by_contra fun hne => hslot ⟨hm, hf, hne⟩
        exact ⟨_, if_pos hfull⟩
      all_goals exact ⟨_, rfl⟩
    all_goals exact ⟨_, rfl⟩

theorem exec_rdmMsg_goes_on {i : Instr} {s : State} (hi : s.Inv) (hsp : i.space = .rdmMsg) :
    ∃ t, exec i s = .next t := by
  rcases rdmMsg_eq_handler_or_nomatch hsp with ⟨h, rfl⟩ | ⟨cc, pid, rfl⟩
  · exact ⟨_, by rw [exec_handler, withinBounds_ok _ hi.sizesOk]⟩
  · exact ⟨_, withinBounds_ok (rdmNomatch cc pid) hi.sizesOk⟩

/-- Every operation goes on from a state with the invariants, if the count of a `setChannels` is the
length of its bytes (U9). -/
theorem exec_goes_on {i : Instr} {s : State} (hi : s.Inv)
    (hcount : ∀ start n vs, i = .setChannels start n vs → n.toNat = vs.length) :
    ∃ t, exec i s = .next t := by
  by_cases hsp : i.space = .rdmMsg
  · exact exec_rdmMsg_goes_on hi hsp
  · cases i <;> try exact absurd rfl hsp
    case rxbyte b => exact rxByte_goes_on hi b
    case brk tDisp tResp during => exact exec_brk_goes_on hi tDisp tResp during
    case txdone => exact exec_txdone_goes_on hi
    case setMode m => cases m <;> exact ⟨_, rfl⟩
    case setChannels start n vs => exact ⟨_, if_pos (hcount start n vs rfl)⟩
    case poll =>
      change ∃ t, execPoll s = .next t
      unfold execPoll
      split
      · exact rxBytes_goes_on hi s.rxq
      · exact ⟨s, rfl⟩
    all_goals exact ⟨_, rfl⟩

/-- Settles O54: waiting and arriving bytes go on, and so does every event the bytes name. -/
theorem stepNeverStopsOnAnEvent : Obligations.StepNeverStopsOnAnEvent := by
  unfold Obligations.StepNeverStopsOnAnEvent
  intro s hi
  rcases hin : s.inbox with _ | ⟨⟨bytes⟩ | ⟨bs⟩, later⟩
  · exact .inl ⟨s, step_waiting hin⟩
  · cases hdec : decodePacket s.cfg bytes with
    | ok i =>
      have hi' : ({ s with inbox := later } : State).Inv := { hi with }
      obtain ⟨t, hexec⟩ := exec_goes_on (i := i) hi' fun start n vs hset =>
        decodePacket_setChannels_count (hset ▸ hdec)
      exact .inl ⟨t, (step_event hin hdec).trans hexec⟩
    | error e => exact .inr ⟨bytes, later, e, rfl, hdec, by simp [step, fetchAndRun, hin, hdec]⟩
  · exact .inl ⟨_, step_arrive hin⟩

end Sys2Proof.Machine
end

section
/-! PROOFS. The three encodings of spec/30_encoding.md (R106, R107, R111): decoding and encoding
undo each other. The part of the handler table is also what tells an unknown key (R108). -/

namespace Sys2Proof

/-- The bytes `bs` are those of the well-formed operation `i` in the encoding `sp`, and then
`rest`. -/
structure Spells (p : Params) (sp : Space) (i : Instr) (rest bs : List Byte) : Prop where
  space : i.space = sp
  wellFormed : WellFormed p i = true
  bytes : encode p i ++ rest = bs

/-! ### Start codes (R106) -/

theorem startCodeOf_other {b : Byte} (hd : b ≠ Config.scDmx) (hr : b ≠ Config.scRdm) :
    startCodeOf b = .other b := by
  rw [startCodeOf, if_neg hd, if_neg hr]

theorem decode_startCode (p : Params) (b : Byte) (rest : List Byte) :
    decode p .startCode (b :: rest) = .ok ((startCodeOf b).instr, rest) := rfl

theorem decode_encode_startCode {p : Params} {i : Instr} (rest : List Byte)
    (hsp : i.space = .startCode) (hwf : WellFormed p i = true) :
    decode p .startCode (encode p i ++ rest) = .ok (i, rest) := by
  cases i <;> try (cases hsp; done)
  case scDmx => rfl
  case scRdm => rfl
  case scOther b =>
    simp only [WellFormed, Bool.and_eq_true, decide_eq_true_eq] at hwf
    obtain ⟨hd, hr⟩ := hwf
    change decode p .startCode (b :: rest) = _
    rw [decode_startCode, startCodeOf_other hd hr]
    rfl

theorem startCodeOf_spells (p : Params) (b : Byte) (rest : List Byte) :
    Spells p .startCode (startCodeOf b).instr rest (b :: rest) := by
  by_cases hd : b = Config.scDmx
  · subst hd
    exact ⟨rfl, rfl, rfl⟩
  · by_cases hr : b = Config.scRdm
    · subst hr
      exact ⟨rfl, rfl, rfl⟩
    · rw [startCodeOf_other hd hr]
      refine ⟨rfl, ?_, rfl⟩
      simp only [StartCode.instr, WellFormed, hd, hr, ne_eq, not_false_eq_true, decide_true,
        Bool.and_self]

/-! ### Handler-table keys (R107, R108) -/

theorem decode_keyBytes (p : Params) (cc : Byte) (pid : Word16) (rest : List Byte) :
    decode p .rdmMsg (keyBytes cc pid ++ rest) = .ok (decodeRdmKey p cc pid, rest) := by
  change Except.ok (decodeRdmKey p cc (be16 (hi8 pid) (lo8 pid)), rest) = _
  rw [be16_hi8_lo8]

theorem exists_mem_handlerTable (p : Params) (h : Handler) :
    ∃ cc pid, ((cc, pid), h) ∈ handlerTable p := by
  cases h <;> simp [handlerTable]

/-- The operation of a table entry is encoded as that entry's key. -/
theorem encode_of_mem_handlerTable {p : Params} {cc : Byte} {pid : Word16} {h : Handler}
    (hm : ((cc, pid), h) ∈ handlerTable p) : encode p h.instr = keyBytes cc pid := by
  have hall : ∀ e ∈ handlerTable p, encode p e.2.instr = keyBytes e.1.1 e.1.2 := by
    simp [handlerTable, Handler.instr, encode]
  exact hall _ hm

theorem Handler.instr_space (h : Handler) : h.instr.space = .rdmMsg := by
  cases h <;> rfl

theorem Handler.instr_wellFormed (p : Params) (h : Handler) : WellFormed p h.instr = true := by
  cases h <;> rfl

theorem lookupHandler_eq_none {p : Params} {cc : Byte} {pid : Word16} :
    lookupHandler p cc pid = none ↔ (cc, pid) ∉ p.rdmKeys := by
  rw [lookupHandler, firstMatch_eq_none, handlerTable_keys]

/-- The keys that stand for no command are those outside the table (R108). -/
theorem decodeRdmKey_eq_rdmNomatch {p : Params} {cc : Byte} {pid : Word16} :
    decodeRdmKey p cc pid = .rdmNomatch cc pid ↔ (cc, pid) ∉ p.rdmKeys := by
  rw [← lookupHandler_eq_none, decodeRdmKey]
  cases lookupHandler p cc pid with
  | none => simp
  | some h => cases h <;> simp [Handler.instr]

theorem decode_encode_rdmMsg {p : Params} {i : Instr} (rest : List Byte)
    (hp : p.proto.distinct = true) (hsp : i.space = .rdmMsg) (hwf : WellFormed p i = true) :
    decode p .rdmMsg (encode p i ++ rest) = .ok (i, rest) := by
  rcases Machine.rdmMsg_eq_handler_or_nomatch hsp with ⟨h, rfl⟩ | ⟨cc, pid, rfl⟩
  · obtain ⟨cc, pid, hm⟩ := exists_mem_handlerTable p h
    rw [encode_of_mem_handlerTable hm, decode_keyBytes, decodeRdmKey_entry hp hm]
  · have hkey : (cc, pid) ∉ p.rdmKeys := of_decide_eq_true hwf
    exact (decode_keyBytes p cc pid rest).trans (by rw [decodeRdmKey_eq_rdmNomatch.mpr hkey])

theorem decodeRdmKey_spells (p : Params) (cc : Byte) (pid : Word16) (rest : List Byte) :
    Spells p .rdmMsg (decodeRdmKey p cc pid) rest (keyBytes cc pid ++ rest) := by
  cases hl : lookupHandler p cc pid with
  | none =>
    have hkey := lookupHandler_eq_none.mp hl
    rw [decodeRdmKey_eq_rdmNomatch.mpr hkey]
    exact ⟨rfl, decide_eq_true hkey, rfl⟩
  | some h =>
    have hdec : decodeRdmKey p cc pid = h.instr := by rw [decodeRdmKey, hl]
    rw [hdec]
    exact ⟨h.instr_space, h.instr_wellFormed p,
      by rw [encode_of_mem_handlerTable (firstMatch_mem hl)]⟩

/-! ### Events (R111, layout of log 2) -/

theorem modeOf_code (m : Mode) : modeOf m.code = some m := by
  cases m <;> rfl

theorem code_of_modeOf {b : Byte} {m : Mode} (h : modeOf b = some m) : m.code = b := by
  unfold modeOf at h
  split_ifs at h with h0 h1 h2
  all_goals
    cases h
    exact Eq.symm ‹b = _›

theorem takeBytes_append {n : Nat} {bs : List Byte} (rest : List Byte) (h : n = bs.length) :
    takeBytes n (bs ++ rest) = .ok (bs, rest) := by
  simp [takeBytes, h]

theorem decodeBrk_encode {p : Params} {tDisp tResp : Nat} {during : List Byte} (rest : List Byte)
    (hDisp : tDisp < 2 ^ p.timeW) (hResp : tResp < 2 ^ p.timeW) (hDuring : during.length < 65536) :
    decodeBrk p (bytesOfNat p.timeBytes tDisp ++ (bytesOfNat p.timeBytes tResp ++
      (bytesOfNat 2 during.length ++ (during ++ rest)))) = .ok (.brk tDisp tResp during, rest) := by
  simp only [decodeBrk, takeTime_bytesOfNat _ hDisp, takeTime_bytesOfNat _ hResp,
    takeString_bytes _ hDuring]

theorem decode_encode_event {p : Params} {i : Instr} (rest : List Byte)
    (hsp : i.space = .event) (hwf : WellFormed p i = true) :
    decode p .event (encode p i ++ rest) = .ok (i, rest) := by
  cases i <;> try (cases hsp; done)
  case brk tDisp tResp during =>
    simp only [WellFormed, Bool.and_eq_true, decide_eq_true_eq] at hwf
    obtain ⟨⟨hDisp, hResp⟩, hDuring⟩ := hwf
    simp only [encode, List.append_assoc]
    exact decodeBrk_encode rest hDisp hResp hDuring
  case setMode m =>
    change decodeSetMode (m.code :: rest) = _
    simp only [decodeSetMode, modeOf_code]
  case setChannel a v =>
    change Except.ok (Instr.setChannel (be16 (hi8 a) (lo8 a)) v, rest) = _
    rw [be16_hi8_lo8]
  case setChannels start n vs =>
    have hn : n.toNat = vs.length := of_decide_eq_true hwf
    change decodeSetChannels (hi8 start :: lo8 start :: hi8 n :: lo8 n :: (vs ++ rest)) = _
    simp only [decodeSetChannels, be16_hi8_lo8, takeBytes_append rest hn]
  all_goals rfl

theorem decodeBrk_spells {p : Params} {i : Instr} {bs rest : List Byte}
    (h : decodeBrk p bs = .ok (i, rest)) : Spells p .event i rest (0x2 :: bs) := by
  unfold decodeBrk at h
  split at h
  case h_1 => cases h
  case h_2 hDisp =>
    split at h
    case h_1 => cases h
    case h_2 hResp =>
      split at h
      case h_1 => cases h
      case h_2 hDuring =>
        cases h
        obtain ⟨rfl, hDispLt⟩ := takeTime_eq_ok hDisp
        obtain ⟨rfl, hRespLt⟩ := takeTime_eq_ok hResp
        obtain ⟨rfl, hDuringLt⟩ := takeString_eq_ok hDuring
        exact ⟨rfl, by simp [WellFormed, hDispLt, hRespLt, hDuringLt], by simp [encode]⟩

theorem decodeSetMode_spells {p : Params} {i : Instr} {bs rest : List Byte}
    (h : decodeSetMode bs = .ok (i, rest)) : Spells p .event i rest (0x4 :: bs) := by
  unfold decodeSetMode at h
  split at h
  · split at h
    next hmode =>
      cases h
      exact ⟨rfl, rfl, by simp [encode, code_of_modeOf hmode]⟩
    next => cases h
  · cases h

theorem decodeSetChannel_spells {p : Params} {i : Instr} {bs rest : List Byte}
    (h : decodeSetChannel bs = .ok (i, rest)) : Spells p .event i rest (0x5 :: bs) := by
  unfold decodeSetChannel at h
  split at h
  · cases h
    exact ⟨rfl, rfl, by simp [encode]⟩
  · cases h

theorem decodeSetChannels_spells {p : Params} {i : Instr} {bs rest : List Byte}
    (h : decodeSetChannels bs = .ok (i, rest)) : Spells p .event i rest (0x6 :: bs) := by
  unfold decodeSetChannels at h
  split at h
  · split at h
    next htake =>
      cases h
      obtain ⟨hlen, rfl⟩ := takeBytes_eq_ok htake
      exact ⟨rfl, by simp [WellFormed, hlen], by simp [encode]⟩
    next => cases h
  · cases h

theorem decodeEvent_spells {p : Params} {i : Instr} {bs rest : List Byte}
    (h : decodeEvent p bs = .ok (i, rest)) : Spells p .event i rest bs := by
  unfold decodeEvent at h
  split at h
  case h_1 => cases h
  case h_2 sel operands =>
    generalize hk : sel.toNat = k at h
    obtain rfl : sel = BitVec.ofNat 8 k := by rw [← hk, BitVec.ofNat_toNat, BitVec.setWidth_eq]
    split at h
    case h_2 =>
      split at h
      · cases h
        exact ⟨rfl, rfl, rfl⟩
      · cases h
    case h_3 => exact decodeBrk_spells h
    case h_5 => exact decodeSetMode_spells h
    case h_6 => exact decodeSetChannel_spells h
    case h_7 => exact decodeSetChannels_spells h
    case h_14 => cases h
    all_goals
      cases h
      exact ⟨rfl, rfl, rfl⟩

/-! ### The three encodings together -/

/-- Settles O1: each of the three encodings reads back what it writes; distinct protocol numbers are
needed for the handler-table keys alone. -/
theorem decodeOfEncodeIsIdentity : Obligations.DecodeOfEncodeIsIdentity := by
  unfold Obligations.DecodeOfEncodeIsIdentity
  intro p i rest hp hwf
  cases hsp : i.space with
  | startCode => exact decode_encode_startCode rest hsp hwf
  | rdmMsg => exact decode_encode_rdmMsg rest hp hsp hwf
  | event => exact decode_encode_event rest hsp hwf

theorem decode_spells {p : Params} {sp : Space} {i : Instr} {bs rest : List Byte}
    (h : decode p sp bs = .ok (i, rest)) : Spells p sp i rest bs := by
  cases sp with
  | startCode =>
    cases bs with
    | nil => cases h
    | cons b rest =>
      cases h
      exact startCodeOf_spells p b rest
  | rdmMsg =>
    rcases bs with _ | ⟨cc, _ | ⟨ph, _ | ⟨pl, rest⟩⟩⟩
    case cons.cons.cons =>
      cases h
      simpa only [keyBytes, hi8_be16, lo8_be16, List.cons_append, List.nil_append] using
        decodeRdmKey_spells p cc (be16 ph pl) rest
    all_goals cases h
  | event => exact decodeEvent_spells h

/-- Settles O2: what an encoding reads is spelt by the bytes it was read from. -/
theorem encodeOfDecodeIsIdentity : Obligations.EncodeOfDecodeIsIdentity := by
  unfold Obligations.EncodeOfDecodeIsIdentity
  intro p sp bs rest i h
  obtain ⟨hspace, hwf, hbytes⟩ := decode_spells h
  exact ⟨hspace, hwf, hbytes⟩

/-- Settles O4: with the default numbers each word is what its operation encodes to. -/
theorem wordsOfTheOpcodeMapDecode : Obligations.WordsOfTheOpcodeMapDecode := by
  unfold Obligations.WordsOfTheOpcodeMapDecode
  have hword (i : Instr) (hwf : WellFormed Config.device i = true) :
      decode Config.device i.space (encode Config.device i ++ []) = .ok (i, []) :=
    decodeOfEncodeIsIdentity Config.device i [] (by decide) hwf
  exact ⟨hword .scDmx rfl, hword .scRdm rfl, hword (.scOther 0x17) (by decide),
    hword .getIdentifyDevice rfl, hword .setDmxStartAddress rfl, hword .discUniqueBranch rfl,
    hword (.rdmNomatch 0x30 0x0060) (by decide), hword (.rxbyte 0x7F) rfl,
    hword (.setMode .output) rfl, hword (.setChannel 511 0x99) rfl⟩

end Sys2Proof
end

section
/-! PROOFS. The start-code rows (spec/30_encoding.md R106, spec/40_receive.md R131) and the command
that a message's key selects (R107, R140, R176). -/

namespace Sys2Proof.Machine

/-! ### Start codes -/

theorem afterStartCode_armed {s : State} (f : Fsm) (hm : s.mode = .input) (hf : s.fsm = .brk) :
    afterStartCode f s = { s with fsm := f } :=
  if_pos ⟨hm, hf⟩

theorem afterStartCode_elsewhere {s : State} (f : Fsm) (h : s.mode ≠ .input ∨ s.fsm ≠ .brk) :
    afterStartCode f s = s :=
  if_neg (not_and_or.mpr h)

/-- The operation of a start code moves the sequencer to where the next byte of its frame finds
it. -/
theorem exec_startCodeOf (b : Byte) (s : State) :
    exec (startCodeOf b).instr s = .next (afterStartCode (fsmAfterStartCode b) s) := by
  by_cases hd : b = Config.scDmx
  · subst hd
    rfl
  · by_cases hr : b = Config.scRdm
    · subst hr
      rfl
    · rw [startCodeOf_other hd hr, fsmAfterStartCode, if_neg hd, if_neg hr]
      rfl

/-- Settles O7: in input mode just after a break the rows move the sequencer, elsewhere they do
nothing. -/
theorem startCodeRowsMoveTheSequencer : Obligations.StartCodeRowsMoveTheSequencer := by
  unfold Obligations.StartCodeRowsMoveTheSequencer
  refine ⟨fun s hm hf => ?armed, fun s h => ?elsewhere⟩
  case armed =>
    have hmove (f : Fsm) : (.next (afterStartCode f s) : Result) = .next { s with fsm := f } := by
      rw [afterStartCode_armed f hm hf]
    exact ⟨hmove .dmxRecv, hmove .rdmRecv, fun _ _ _ => hmove .idle⟩
  case elsewhere =>
    have hstay (f : Fsm) : (.next (afterStartCode f s) : Result) = .next s := by
      rw [afterStartCode_elsewhere f h]
    exact ⟨hstay .dmxRecv, hstay .rdmRecv, fun _ => hstay .idle⟩

/-- Settles O6: the received byte and the operation of its start code lead to the same place. -/
theorem startCodeSelectsFrameKind : Obligations.StartCodeSelectsFrameKind := by
  unfold Obligations.StartCodeSelectsFrameKind
  intro s b hm hf
  have hbyte : exec (.rxbyte b) s =
      .next { s with rxq := s.rxq.tail, fsm := fsmAfterStartCode b } := rxByte_start b hm hf
  refine ⟨?_, hbyte⟩
  rw [hbyte, exec_startCodeOf, afterStartCode_armed _ (by exact hm) (by exact hf)]

/-! ### The selected command -/

theorem dispatchState_accepted {s : State} (tDisp tResp : Nat) (ha : s.accepted = true) :
    dispatchState tDisp tResp s = { s with
      fsm := .idle
      irqSuppress := false
      t0 := tDisp % 2 ^ s.cfg.timeW
      now := tResp % 2 ^ s.cfg.timeW } := by
  rw [dispatchState, if_pos ha]

/-- The break after a message for this device whose bytes are all processed: the selected command
runs, and the return re-arms over whatever the command left. -/
theorem exec_brk_dispatches {s : State} (tDisp tResp : Nat) (during : List Byte)
    (hm : s.mode = .input) (hf : s.fsm = .rdmRecv) (hq : s.rxq = []) (hs : s.sizesOk = true)
    (ha : s.accepted = true) :
    exec (.brk tDisp tResp during) s =
      .next (leaveFinalisation (runCommand (dispatchState tDisp tResp s))) := by
  have hfin : finalise tDisp tResp during (enterFinalisation s) =
      .next (enterFinalisation (runCommand (dispatchState tDisp tResp s))) := by
    rw [finalise_dispatch tDisp tResp during (by exact hf) (by exact hq) (by exact hs)]
    exact congrArg (fun t => Host.Outcome.next (enterFinalisation t)) (if_pos ha)
  calc exec (.brk tDisp tResp during) s
      = breakDetected tDisp tResp during s := rfl
    _ = .next (leaveFinalisation (enterFinalisation
          (runCommand (dispatchState tDisp tResp s)))) := by
      rw [breakDetected_input tDisp tResp during hm, hq, rxBytes_nil, andThen_next, hfin,
        andThen_next]
    _ = .next (leaveFinalisation (runCommand (dispatchState tDisp tResp s))) := rfl

/-- Settles O15: the command runs on the state in which the dispatch begins, which has the message
of `s` and so selects what `s` selects. -/
theorem breakRunsTheSelectedCommand : Obligations.BreakRunsTheSelectedCommand := by
  unfold Obligations.BreakRunsTheSelectedCommand
  intro s tDisp tResp during hm hf hq hs ha
  refine ⟨runCommand (dispatchState tDisp tResp s), ?_,
    exec_brk_dispatches tDisp tResp during hm hf hq hs ha⟩
  rw [← dispatchState_accepted tDisp tResp ha]
  calc exec (decodeRdmKey s.cfg s.commandClass s.paramId) (dispatchState tDisp tResp s)
      = withinBounds runCommand (dispatchState tDisp tResp s) := 
        exec_selected (dispatchState tDisp tResp s)
    _ = .next (runCommand (dispatchState tDisp tResp s)) := withinBounds_ok runCommand hs

end Sys2Proof.Machine
end

section
/-! PROOFS. The whole answer of the Response Builder (spec/45_response_builder.md R250 to R258): an
ACK with given data and a NACK are both `Responded`. From it the commands that answer without
changing a register but the mute flag (spec/42_rdm_dispatch.md, 43_rdm_handlers.md,
44_rdm_discovery.md). -/

namespace Sys2Proof.Machine

/-! ### Writing memory alone -/

theorem OnlyMemory.out {s t : State} (h : OnlyMemory s t) : t.out = s.out := by rw [h]

theorem OnlyMemory.actAddr {s t : State} (h : OnlyMemory s t) : t.actAddr = s.actAddr := by
  rw [h]
  rfl

theorem OnlyMemory.timerActions {s t : State} (h : OnlyMemory s t) :
    timerActions t = timerActions s := by
  rw [h]
  rfl

/-- Where memory and output are overwritten, a write to memory before it leaves no trace. -/
theorem OnlyMemory.answered {s t : State} (h : OnlyMemory s t) (mem : Memory) (out : List Action) :
    ({ t with mem, out, lineTiming := .data, lineDir := .rx } : State) =
      { s with mem, out, lineTiming := .data, lineDir := .rx } := by
  rw [h]

/-! ### The message before the header is rewritten -/

theorem State.peekBytes_succ (s : State) (k n : Nat) :
    s.peekBytes k (n + 1) = s.peek k :: s.peekBytes (k + 1) n := by
  simp only [State.peekBytes, Memory.readBytes, State.peek, State.actAddr_add]

@[simp] theorem State.peekBytes_zero (s : State) (k : Nat) : s.peekBytes k 0 = [] := rfl

/-- The byte at each offset once data field, data length and response type stand over the request
in the active buffer (R250, R252). -/
def State.answeredByte (s : State) (responseType : Byte) (data : List Byte) (j : Nat) : Byte :=
  if j = 22 then BitVec.ofNat 8 data.length
  else if 23 ≤ j ∧ j < 23 + data.length then data.getD (j - 23) 0
  else if j = 15 then responseType
  else s.peek j

/-- `s'` is `s` with its answer written over the request as far as a handler writes it, so that the
builder entered with `kind` completes the response. -/
structure Prepared (kind : ReplyKind) (s s' : State) (responseType : Byte) (data : List Byte) :
    Prop where
  lengthLe : data.length ≤ 231
  onlyMemory : OnlyMemory s s'
  served : Served s s'
  request : ∀ j, j < 22 → s'.peek j = s.peek j
  answer : ∀ j, (setResponseType kind s').peek j = s.answeredByte responseType data j

/-- A handler's ACK writes the data field and its length. -/
theorem prepared_ack {data : List Byte} (s : State) (hlen : data.length ≤ 231) :
    Prepared .ack s ((s.pokeBytes 23 data).poke 22 (BitVec.ofNat 8 data.length))
      s.cfg.proto.rtAck data where
  lengthLe := hlen
  onlyMemory := ((OnlyMemory.refl s).pokeBytes _ _).poke _ _
  served := (served_pokeBytes (by omega)).trans (served_poke _ (by omega))
  request j hj := by
    rw [State.peek_poke, if_neg (by omega), State.peek_pokeBytes, if_neg (by omega)]
  answer j := by
    simp only [peek_setResponseType, State.peek_poke, State.peek_pokeBytes, State.answeredByte,
      State.poke_cfg, State.pokeBytes_cfg]
    grind

/-- A NACK leaves data field and length to the builder. -/
theorem prepared_nack (reason : Word16) (s : State) :
    Prepared (.nack reason) s s s.cfg.proto.rtNack (word16Bytes reason) where
  lengthLe := by simp [word16Bytes]
  onlyMemory := .refl s
  served := .refl s
  request _ _ := rfl
  answer j := by
    have hdata : [hi8 reason, lo8 reason].getD (j - 23) 0 =
        if j - 23 = 0 then hi8 reason else if j - 23 = 1 then lo8 reason else 0 := by
      rcases j - 23 with _ | _ | k <;> simp
    simp only [peek_setResponseType, State.answeredByte, word16Bytes, hdata, List.length_cons,
      List.length_nil]
    grind

/-! ### Header, checksum, transmission -/

section
variable {kind : ReplyKind} {s s' : State} {responseType : Byte} {data : List Byte}

theorem Prepared.cfg (h : Prepared kind s s' responseType data) : s'.cfg = s.cfg := h.served.cfg

/-- Addressing, command class and length are written over the answer (R253 to R255). -/
theorem Prepared.peek_header (h : Prepared kind s s' responseType data) (j : Nat) :
    (header kind s').peek j =
      if j = 19 then s.peek 19 + 1
      else if 8 ≤ j ∧ j < 14 then (idBytes s.cfg.uid).getD (j - 8) 0
      else if 2 ≤ j ∧ j < 8 then s.peek (j + 6)
      else if j = 1 then BitVec.ofNat 8 (data.length + 24)
      else s.answeredByte responseType data j := by
  have hlen : s.answeredByte responseType data 22 + 24 = BitVec.ofNat 8 (data.length + 24) := by
    simp [State.answeredByte, BitVec.ofNat_add]
  simp only [Machine.peek_header, h.answer, h.cfg, hlen, h.request 19 (by decide)]
  split
  · rfl
  · split
    · rfl
    · split
      next hj => rw [h.request _ (by omega)]
      next => rfl

/-- The 23 bytes before the data field are those of R92. -/
theorem Prepared.header_fields (h : Prepared kind s s' responseType data) :
    (header kind s').peekBytes 0 23 =
      [s.peek 0, BitVec.ofNat 8 (data.length + 24)] ++
        [s.peek 8, s.peek 9, s.peek 10, s.peek 11, s.peek 12, s.peek 13] ++ idBytes s.cfg.uid ++
        [s.peek 14, responseType, s.peek 16, s.peek 17, s.peek 18, s.peek 19 + 1, s.peek 20,
          s.peek 21, BitVec.ofNat 8 data.length] := by
  simp [State.peekBytes_succ, h.peek_header, State.answeredByte, idBytes]

theorem Prepared.header_data (h : Prepared kind s s' responseType data) :
    (header kind s').peekBytes 23 data.length = data := by
  refine State.peekBytes_eq fun j hj => ?_
  rw [h.peek_header, State.answeredByte]
  grind

theorem Prepared.header_body (h : Prepared kind s s' responseType data) :
    (header kind s').peekBytes 0 (23 + data.length) = responseBody s responseType data := by
  rw [State.peekBytes_add, h.header_fields, h.header_data]
  rfl

/-- The length field counts the message without its checksum (R93). -/
theorem Prepared.header_length (h : Prepared kind s s' responseType data) :
    ((header kind s').peek 1).toNat = data.length + 24 := by
  have := h.lengthLe
  have hbyte : (header kind s').peek 1 = BitVec.ofNat 8 (data.length + 24) := by
    simp [h.peek_header]
  rw [hbyte, BitVec.toNat_ofNat]
  omega

/-- The checksum stands behind the message; nothing else changes (R256). -/
theorem Prepared.peek_completed (h : Prepared kind s s' responseType data) (j : Nat) :
    (appendChecksum (header kind s')).peek j =
      if j = 23 + data.length then hi8 (checksum16 (responseBody s responseType data))
      else if j = 24 + data.length then lo8 (checksum16 (responseBody s responseType data))
      else (header kind s').peek j := by
  have hcount : data.length + 24 - 1 = 23 + data.length := by omega
  have hnext : 23 + data.length + 1 = 24 + data.length := by omega
  simp only [peek_appendChecksum, h.header_length, hcount, hnext, h.header_body]

theorem Prepared.completed_length (h : Prepared kind s s' responseType data) :
    ((appendChecksum (header kind s')).peek 1).toNat + 1 = data.length + 25 := by
  rw [h.peek_completed, if_neg (by omega), if_neg (by omega), h.header_length]

theorem Prepared.completed_message (h : Prepared kind s s' responseType data) :
    (appendChecksum (header kind s')).peekBytes 0 (data.length + 25) =
      responseMessage s responseType data := by
  have hbody : (appendChecksum (header kind s')).peekBytes 0 (23 + data.length) =
      responseBody s responseType data := by
    rw [← h.header_body]
    refine State.peekBytes_congr fun j hj => ?_
    rw [h.peek_completed, if_neg (by omega), if_neg (by omega)]
  have hsum : (appendChecksum (header kind s')).peekBytes (23 + data.length) 2 =
      word16Bytes (checksum16 (responseBody s responseType data)) := by
    simp [State.peekBytes_succ, h.peek_completed, word16Bytes, Nat.add_right_comm 23]
  rw [show data.length + 25 = 23 + data.length + 2 by omega, State.peekBytes_add, Nat.zero_add,
    hbody, hsum, responseMessage]

theorem Prepared.completed_onlyMemory (h : Prepared kind s s' responseType data) :
    OnlyMemory s (appendChecksum (header kind s')) :=
  (h.onlyMemory.trans (header_onlyMemory kind s')).trans (appendChecksum_onlyMemory _)

/-- Behind the checksum the buffer is the request's. -/
theorem Prepared.peek_behind (h : Prepared kind s s' responseType data) {j : Nat}
    (hj : data.length + 25 ≤ j) : (appendChecksum (header kind s')).peek j = s.peek j := by
  rw [h.peek_completed, h.peek_header, State.answeredByte]
  grind

theorem Prepared.build_mem (h : Prepared kind s s' responseType data) {a : Nat}
    (ha : a < s.actAddr 0 ∨ s.actAddr (data.length + 25) ≤ a) :
    (build kind s').mem.read a = s.mem.read a := by
  have hserved : Served s (build kind s') := h.served.trans (served_build kind s')
  rcases ha with hbelow | hbehind
  · exact hserved.memory a (.inl hbelow)
  · rw [s.actAddr_eq] at hbehind
    have hpeek := h.peek_behind (j := a - s.actAddr 0) (by omega)
    have haddr : s.actAddr (a - s.actAddr 0) = a := by
      rw [s.actAddr_eq]
      omega
    rw [State.peek, State.peek, h.completed_onlyMemory.actAddr, haddr] at hpeek
    rw [build_emit]
    exact hpeek

/-- The builder makes of a prepared answer the response (R250). -/
theorem Prepared.responded (h : Prepared kind s s' responseType data) :
    Responded s (build kind s') responseType data where
  message := by rw [build_emit, State.peekBytes_emit, h.completed_message]
  memory _ := h.build_mem
  out := by
    rw [build_emit, State.emit_out, h.completed_onlyMemory.out, h.onlyMemory.timerActions,
      h.completed_length, h.completed_message, List.append_assoc]
  rest := (build_rest kind s').trans (h.onlyMemory.answered _ _)

end

/-- A handler's ACK answers with its data and changes nothing else (R250). -/
theorem ackWith_responded {data : List Byte} (s : State) (hlen : data.length ≤ 231) :
    Responded s (ackWith data s) s.cfg.proto.rtAck data :=
  (prepared_ack s hlen).responded

theorem raiseNack_nacked (reason : Word16) (s : State) : Nacked s (raiseNack reason s) reason :=
  (prepared_nack reason s).responded

/-! ### GET requests (R202 to R207) -/

/-- A valid GET is answered with the handler's data. -/
theorem withinBounds_getHandler_responded {s : State} (hs : s.sizesOk = true) (hpdl : s.pdl = 0)
    (hsub : s.subDevice = 0) {data : State → List Byte} (hlen : (data s).length ≤ 231) :
    ∃ t, withinBounds (getHandler data) s = .next t ∧
      Responded s t s.cfg.proto.rtAck (data s) := by
  have hvalid : getHandler data s = ackWith (data s) s := validate_ok (decide_eq_true hpdl) hsub
  exact ⟨_, withinBounds_ok _ hs, hvalid ▸ ackWith_responded s hlen⟩

/-! ### What the payloads hold with and without a configuration (R9, R103, R104) -/

section
variable {s : State}

theorem State.config_attached {c : Collaborator} (hc : s.cfg.collab = some c) {α : Type}
    (f : Collaborator → α) (absent : α) : s.config f absent = f c := by
  simp only [State.config, hc]

theorem State.config_absent (hc : s.cfg.collab = none) {α : Type} (f : Collaborator → α)
    (absent : α) : s.config f absent = absent := by
  simp only [State.config, hc]

theorem State.supportedPids_attached {c : Collaborator} (hc : s.cfg.collab = some c) :
    s.supportedPids =
      [s.cfg.basePids.1, s.cfg.basePids.2.1, s.cfg.basePids.2.2] ++ c.extraPids := by
  rw [State.supportedPids, State.config_attached hc]

theorem State.supportedPids_absent (hc : s.cfg.collab = none) :
    s.supportedPids = [s.cfg.basePids.1, s.cfg.basePids.2.1, s.cfg.basePids.2.2] := by
  rw [State.supportedPids, State.config_absent hc, List.append_nil]

theorem State.startAddrRead_attached {c : Collaborator} (hc : s.cfg.collab = some c) :
    s.startAddrRead = s.startAddr := by
  simp [State.startAddrRead, hc]

theorem State.startAddrRead_absent (hc : s.cfg.collab = none) : s.startAddrRead = 0 := by
  simp [State.startAddrRead, hc]

end

/-- The four bytes of a 32-bit quantity are the big-endian bytes of its value. -/
theorem word32Bytes_eq_bytesOfNat (w : Word32) : word32Bytes w = bytesOfNat 4 w.toNat := by
  simp only [word32Bytes, bytesOfNat, List.cons.injEq, and_true]
  refine ⟨?_, ?_, ?_, ?_⟩ <;>
    simp [BitVec.extractLsb', Nat.shiftRight_eq_div_pow]

/-- Settles O29: the answer is `State.supportedPids`, whose second part is the configuration's. -/
theorem getSupportedParametersAnswers : Obligations.GetSupportedParametersAnswers := by
  unfold Obligations.GetSupportedParametersAnswers
  intro s hs hpdl hsub
  obtain ⟨_, hlen, _⟩ := get_lengths hs
  have hans := withinBounds_getHandler_responded hs hpdl hsub
    (data := fun s => s.supportedPids.flatMap word16Bytes) hlen
  refine ⟨fun c hc => ?attached, fun hc => ?absent⟩
  case attached =>
    rw [State.supportedPids_attached hc] at hans
    exact hans
  case absent =>
    rw [State.supportedPids_absent hc] at hans
    exact hans

/-- Settles O30: the answer is `State.deviceInfo`, read with and without a configuration. -/
theorem getDeviceInfoAnswers : Obligations.GetDeviceInfoAnswers := by
  unfold Obligations.GetDeviceInfoAnswers
  intro s hs hpdl hsub
  obtain ⟨_, _, hlen, _⟩ := get_lengths hs
  have hans := withinBounds_getHandler_responded hs hpdl hsub (data := State.deviceInfo) hlen
  rw [State.deviceInfo, word32Bytes_eq_bytesOfNat] at hans
  refine ⟨fun c hc => ?attached, fun hc => ?absent⟩
  case attached =>
    rw [State.config_attached hc, State.config_attached hc, State.startAddrRead_attached hc] at hans
    exact hans
  case absent =>
    rw [State.config_absent hc, State.config_absent hc, State.startAddrRead_absent hc] at hans
    exact hans

/-- Settles O31: each answer is the configuration's string, or the empty one. -/
theorem getStringsAnswer : Obligations.GetStringsAnswer := by
  unfold Obligations.GetStringsAnswer
  intro s hs hpdl hsub
  obtain ⟨_, _, _, hmfr, hmodel, hsw⟩ := get_lengths hs
  have hget (f : Collaborator → List Byte) (hlen : (s.config f []).length ≤ 231) :=
    withinBounds_getHandler_responded hs hpdl hsub (data := (·.config f [])) hlen
  refine ⟨fun c hc => ?attached, fun hc => ?absent⟩
  case attached =>
    simp only [State.config_attached hc] at hget hmfr hmodel hsw
    exact ⟨hget _ hmfr, hget _ hmodel, hget _ hsw⟩
  case absent =>
    simp only [State.config_absent hc] at hget hmfr hmodel hsw
    exact ⟨hget (·.mfrLabel) hmfr, hget (·.modelDesc) hmodel, hget (·.swLabel) hsw⟩

/-! ### Unknown keys (R108, R176) -/

/-- Settles O38: the dispatcher's own NACK, and the keys for which the linear scan finds nothing. -/
theorem unknownParameterNacks : Obligations.UnknownParameterNacks := by
  unfold Obligations.UnknownParameterNacks
  refine ⟨fun s cc pid hs => ?_, fun p cc pid => decodeRdmKey_eq_rdmNomatch⟩
  exact ⟨_, withinBounds_ok (rdmNomatch cc pid) hs, raiseNack_nacked _ s⟩

/-! ### Mute and unmute (R234, R235) -/

theorem discSetMute_effective (m : Bool) {s : State} (hdest : s.peek48 2 = s.cfg.uid)
    (hpdl : s.pdl = 0) : discSetMute m s = ackWith [0x00, 0x00] (setMute m s) := by
  have hme : s.isForMe = true := decide_eq_true hdest
  rw [discSetMute, hme, hpdl]
  rfl

theorem discSetMute_ineffective (m : Bool) {s : State}
    (h : s.peek48 2 ≠ s.cfg.uid ∨ s.pdl ≠ 0) : discSetMute m s = s := by
  refine if_pos ?_
  rcases h with hdest | hpdl
  · have hme : s.isForMe = false := decide_eq_false hdest
    rw [hme]
    rfl
  · rw [decide_eq_true hpdl, Bool.or_true]

/-- Settles O42: the ACK is that of the state with the flag written. -/
theorem muteAndUnmute : Obligations.MuteAndUnmute := by
  unfold Obligations.MuteAndUnmute
  intro s hs
  refine ⟨fun hdest hpdl => ?effective, fun h => ?ineffective⟩
  case effective =>
    have hans (m : Bool) : ∃ t, withinBounds (discSetMute m) s = .next t ∧
        Responded { s with mute := m } t s.cfg.proto.rtAck [0, 0] :=
      ⟨_, withinBounds_ok _ hs,
        discSetMute_effective m hdest hpdl ▸ ackWith_responded (setMute m s) (by decide)⟩
    exact ⟨hans true, hans false⟩
  case ineffective =>
    have hdrop (m : Bool) : withinBounds (discSetMute m) s = .next s := by
      rw [withinBounds_ok _ hs, discSetMute_ineffective m h]
    exact ⟨hdrop true, hdrop false⟩

end Sys2Proof.Machine
end

section
/-! PROOFS. The receive state machine (spec/40_receive.md): a received byte, the drain at a break
and by `poll`, the break without a frame, and the two frames that fill the buffer. -/

namespace Sys2Proof.Machine

/-! ### One received byte (R131) -/

/-- Settles O8: the byte is stored at the index, and the frame ends by its kind when that was the
buffer's last byte. -/
theorem receivedByteIsStored : Obligations.ReceivedByteIsStored := by
  unfold Obligations.ReceivedByteIsStored
  intro s b full hm hkind hi
  have hrecv : s.fsm = .dmxRecv ∨ s.fsm = .rdmRecv := hkind.imp And.left And.left
  have hfull : fsmWhenFull s.fsm = full := by
    rcases hkind with ⟨hf, rfl⟩ | ⟨hf, rfl⟩ <;> rw [hf] <;> rfl
  refine ⟨_, rxByte_store b hm hrecv hi, ?stored, ?frame, ?rest⟩
  case stored => exact Memory.read_write_same _ _ _
  case frame => exact fun a ha => State.read_poke_outside b ha
  case rest =>
    rw [hfull]
    rfl

/-- Settles O9: whichever of the four cases it is, nothing listens for the byte. -/
theorem receivedByteIsDropped : Obligations.ReceivedByteIsDropped := by
  unfold Obligations.ReceivedByteIsDropped
  intro s b h
  refine rxByte_drop b (h.imp_right fun hf => ?_)
  rcases hf with hf | hf | hf <;> rw [hf] <;> decide

/-! ### The drain (R132, R279) -/

/-- Settles O11: both breaks finalise the state in which the last queued byte is processed; the
second finds nothing left to drain. -/
theorem breakDrainsAsIfNotified : Obligations.BreakDrainsAsIfNotified := by
  unfold Obligations.BreakDrainsAsIfNotified
  intro s u tDisp tResp during hm hnotified
  have hdrain : rxBytes s.rxq s = .next u := by rw [← execAll_rxbyte, hnotified]
  obtain ⟨hrest, _⟩ := rxBytes_eq_next hdrain
  have hmode : u.mode = .input := by rw [hrest, ← hm]
  have hqueue : u.rxq = [] := by
    rw [hrest]
    exact List.drop_length
  show breakDetected tDisp tResp during s = breakDetected tDisp tResp during u
  rw [breakDetected_input tDisp tResp during hm, breakDetected_input tDisp tResp during hmode,
    hdrain, hqueue, rxBytes_nil]

theorem exec_poll_input {s : State} (hm : s.mode = .input) :
    exec .poll s = rxBytes s.rxq s := if_pos hm

theorem exec_poll_elsewhere {s : State} (hm : s.mode ≠ .input) : exec .poll s = .next s :=
  if_neg hm

/-- Settles O12: a poll is the drain, and a drain inside a frame with room stores what is queued. -/
theorem pollDeliversTheQueue : Obligations.PollDeliversTheQueue := by
  unfold Obligations.PollDeliversTheQueue
  refine ⟨fun s u hm hnotified => ?delivery, fun s hm hf hroom => ?stored,
    fun s hm => exec_poll_elsewhere hm⟩
  case delivery => rw [exec_poll_input hm, ← execAll_rxbyte, hnotified]
  case stored =>
    rw [exec_poll_input hm, rxBytes_store s.rxq hm hf hroom, List.drop_length]
    exact ⟨_, rfl, State.peekBytes_pokeBytes_same s s.idx s.rxq,
      fun a ha => State.read_pokeBytes_outside ha, rfl⟩

/-! ### The break without a frame (R140) -/

/-- An armed break after whose drain no frame stands only re-arms; the suppression of the entry does
not outlive it. -/
theorem exec_brk_rearms {s u : State} (tDisp tResp : Nat) (during : List Byte)
    (hm : s.mode = .input) (hdrain : rxBytes s.rxq s = .next u)
    (hf : u.fsm = .idle ∨ u.fsm = .brk ∨ u.fsm = .dmxTx) :
    exec (.brk tDisp tResp during) s = .next (leaveFinalisation u) := by
  have hfin : finalise tDisp tResp during (enterFinalisation u) = .next (enterFinalisation u) :=
    finalise_idle tDisp tResp during hf
  calc exec (.brk tDisp tResp during) s
      = breakDetected tDisp tResp during s := rfl
    _ = .next (leaveFinalisation (enterFinalisation u)) := by
      rw [breakDetected_input tDisp tResp during hm, hdrain, andThen_next, hfin, andThen_next]
    _ = .next (leaveFinalisation u) := rfl

/-- Settles O14: with an empty queue the state that the break finalises is the one it comes in. -/
theorem breakWithoutFrameOnlyArms : Obligations.BreakWithoutFrameOnlyArms := by
  unfold Obligations.BreakWithoutFrameOnlyArms
  refine ⟨fun s tDisp tResp during hm hf hq => ?armed,
    fun s tDisp tResp during hm => exec_brk_disarmed tDisp tResp during hm⟩
  case armed =>
    have hdrain : rxBytes s.rxq s = .next s := by rw [hq, rxBytes_nil]
    exact exec_brk_rearms tDisp tResp during hm hdrain (hf.imp_right .inl)

/-! ### Frames that fill the buffer (R131, R145, R291) -/

/-- Where a frame that fills the buffer ends, nothing listens for a byte. -/
theorem fsmWhenFull_deaf (f : Fsm) :
    fsmWhenFull f ≠ .brk ∧ fsmWhenFull f ≠ .dmxRecv ∧ fsmWhenFull f ≠ .rdmRecv := by
  cases f <;> decide

/-- Bytes inside a frame of which the first ones fill the buffer: these are stored in order and end
the frame, and what follows them is dropped (D5). -/
theorem rxBytes_overfull {s : State} {bs surplus : List Byte} (hm : s.mode = .input)
    (hf : s.fsm = .dmxRecv ∨ s.fsm = .rdmRecv) (hend : s.idx + bs.length = 512)
    (h0 : 0 < bs.length) :
    rxBytes (bs ++ surplus) s = .next { s.pokeBytes s.idx bs with
      rxq := s.rxq.drop (bs.length + surplus.length)
      idx := 512
      fsm := fsmWhenFull s.fsm } := by
  rw [rxBytes_append, rxBytes_frame hm hf hend.le h0, if_pos hend, hend, andThen_next,
    rxBytes_drop surplus (.inr (fsmWhenFull_deaf s.fsm)), List.drop_drop]

/-- A queued frame that fills the buffer: the 512 bytes after its start code are stored from offset
0 in order, and what follows them is dropped. -/
theorem rxBytes_fullFrame {s : State} {start : Byte} {data surplus : List Byte}
    (hm : s.mode = .input) (hf : s.fsm = .brk) (hi : s.idx = 0)
    (hstart : fsmAfterStartCode start = .dmxRecv ∨ fsmAfterStartCode start = .rdmRecv)
    (hlen : data.length = 512) (hq : s.rxq = start :: (data ++ surplus)) :
    rxBytes s.rxq s = .next { s.pokeBytes 0 data with
      rxq := [], idx := 512, fsm := fsmWhenFull (fsmAfterStartCode start) } := by
  have hend : s.idx + data.length = 512 := by rw [hi, hlen]
  rw [hq, rxBytes_cons, rxByte_start start hm hf, andThen_next,
    rxBytes_overfull (by exact hm) (by exact hstart) (by exact hend) (by omega), hq, List.tail_cons,
    ← List.length_append, List.drop_length, ← hi]
  rfl

theorem exec_getBuffer_eq {s : State} {bs : List Byte}
    (h : s.mem.readBytes (s.inactAddr 0) 512 = bs) :
    exec .getBuffer s = .next { s with returned := s.returned ++ [.bytes bs] } := by
  rw [exec_getBuffer, h]

/-- Settles O18: the frame stands complete after the drain, and the swap makes its buffer the one
that `getBuffer` reads. -/
theorem fullFrameIsPublishedInOrder : Obligations.FullFrameIsPublishedInOrder := by
  unfold Obligations.FullFrameIsPublishedInOrder
  intro s data surplus tDisp tResp during hm hf hi hlen hq
  have hdrain := rxBytes_fullFrame hm hf hi (.inl rfl) hlen hq
  refine ⟨_, exec_brk_publishes tDisp tResp during hm hdrain (.inr rfl), ?published, ?rest⟩
  case published =>
    have hread := s.mem.readBytes_writeBytes_same (s.actAddr 0) data
    rw [hlen] at hread
    refine exec_getBuffer_eq ?_
    rw [(addresses_of_swap (s := s) rfl 0).1]
    exact hread
  case rest =>
    rw [hf, hi]
    rfl

/-- Settles O20: the message is discarded by the byte that fills the buffer, so the break finds no
frame to finalise. -/
theorem oversizedMessageIsNeverDispatched : Obligations.OversizedMessageIsNeverDispatched := by
  unfold Obligations.OversizedMessageIsNeverDispatched
  intro s data tDisp tResp during hm hf hi hlen hq
  have htake : (data.take 512).length = 512 := List.length_take_of_le hlen
  rw [← List.take_append_drop 512 data] at hq
  have hdrain := rxBytes_fullFrame hm hf hi (.inr rfl) htake hq
  refine ⟨_, exec_brk_rearms tDisp tResp during hm hdrain (.inl rfl), ?stored, ?inactive, ?rest⟩
  case stored =>
    have hread := State.peekBytes_pokeBytes_same s 0 (data.take 512)
    rwa [htake] at hread
  case inactive => exact fun k hk => (writesActiveOnly_pokeBytes htake.le).read_inactAddr hk
  case rest =>
    rw [hf, hi]
    rfl

end Sys2Proof.Machine
end

section
/-! PROOFS. The transmit pump (spec/41_transmit.md R160 to R163, R297): one byte per
transmission-complete, and the whole cycle from break to break. -/

namespace Sys2Proof.Machine

/-! ### One transmission-complete -/

theorem exec_txdone_brk {s : State} (hm : s.mode = .output) (hf : s.fsm = .brk) :
    exec .txdone s = .next (sendStartCode s) := by
  show execTxdone s = _
  simp only [execTxdone, hm, hf]

theorem exec_txdone_nextSlot {s : State} (hm : s.mode = .output) (hf : s.fsm = .dmxTx)
    (hi : s.idx < 512) : exec .txdone s = .next { s with
      out := s.out ++ [.wr (s.peek s.idx)], idx := s.idx + 1 } := by
  rw [exec_txdone_slot hm hf hi.ne]
  exact if_pos hi

theorem exec_txdone_full {s : State} (hm : s.mode = .output) (hf : s.fsm = .dmxTx)
    (hi : s.idx = 512) : exec .txdone s = .next (sendBreak s) := by
  show execTxdone s = _
  simp only [execTxdone, hm, hf]
  exact if_pos hi

theorem exec_txdone_disarmed {s : State} (hm : s.mode ≠ .output) : exec .txdone s = .next s := by
  show execTxdone s = _
  cases h : s.mode with
  | off => simp only [execTxdone, h]
  | input => simp only [execTxdone, h]
  | output => exact absurd h hm

/-- Settles O21: the pump's four cases. -/
theorem pumpSendsOneMoreByte : Obligations.PumpSendsOneMoreByte := by
  unfold Obligations.PumpSendsOneMoreByte
  exact fun _ => ⟨exec_txdone_brk, exec_txdone_nextSlot, exec_txdone_full, exec_txdone_disarmed⟩

/-! ### The cycle (R162) -/

/-- Inside a frame, as many transmission-completes as slots remain, or fewer, send the next slots
in order. -/
theorem execAll_txdone_slots {s : State} {n : Nat} (hm : s.mode = .output) (hf : s.fsm = .dmxTx)
    (hi : s.idx + n ≤ 512) : execAll (List.replicate n .txdone) s = .next { s with
      out := s.out ++ (s.peekBytes s.idx n).map .wr, idx := s.idx + n } := by
  induction n generalizing s with
  | zero => simp [execAll, State.peekBytes, Memory.readBytes]
  | succ n ih =>
    rw [List.replicate_succ, execAll, exec_txdone_nextSlot hm hf (by omega), andThen_next,
      ih (by exact hm) (by exact hf) (by simp only; omega), State.peekBytes_succ,
      List.map_cons]
    simp only [State.peekBytes, State.actAddr, List.append_assoc, List.singleton_append,
      Nat.add_assoc, Nat.add_comm 1]

/-- Settles O22: the start code, the slots from offset 0 to the end of the buffer, the break. -/
theorem pumpCycleSendsTheWholeBuffer : Obligations.PumpCycleSendsTheWholeBuffer := by
  unfold Obligations.PumpCycleSendsTheWholeBuffer
  intro s hm hf hi
  have hcycle : List.replicate 514 Instr.txdone =
      .txdone :: (List.replicate 512 .txdone ++ [.txdone]) :=
    List.replicate_succ.trans (congrArg _ List.replicate_succ')
  have hslots := execAll_txdone_slots (s := sendStartCode s) (n := 512) hm rfl
    (by simp [sendStartCode, hi])
  rw [hcycle, execAll, exec_txdone_brk hm hf, andThen_next, execAll_append, hslots, andThen_next,
    execAll, exec_txdone_full (by exact hm) rfl (by simp [sendStartCode, hi]), andThen_next,
    execAll]
  simp only [sendBreak, sendStartCode, State.emit, timingAfter, dirAfter, State.peekBytes,
    State.actAddr, Config.scDmx, hi, hf, List.append_assoc]

end Sys2Proof.Machine
end

section
/-! PROOFS. What the dispatcher turns away (spec/42_rdm_dispatch.md): a message for another
destination (R176, R292), and a request that a handler's `Validate` does not pass on (R180, R293). -/

namespace Sys2Proof.Machine

/-! ### Messages for another destination (R176, R292) -/

theorem State.accepted_eq_false {s : State} (huid : s.peek48 2 ≠ s.cfg.uid)
    (hvcast : s.peek48 2 ≠ s.cfg.vcast) (hbcast : s.peek48 2 ≠ s.cfg.bcast) :
    s.accepted = false := by
  simp [State.accepted, State.isForMe, State.destination, huid, hvcast, hbcast]

theorem dispatchState_ignored {s : State} (tDisp tResp : Nat) (ha : s.accepted = false) :
    dispatchState tDisp tResp s = { s with
      fsm := .idle
      irqSuppress := false
      t0 := tDisp % 2 ^ s.cfg.timeW
      now := tDisp % 2 ^ s.cfg.timeW } := by
  rw [dispatchState, if_neg (by simp [ha])]

/-- The break after a message for another destination whose bytes are all processed: no command
runs, and the return re-arms over the state in which the dispatch began. -/
theorem exec_brk_ignores {s : State} (tDisp tResp : Nat) (during : List Byte)
    (hm : s.mode = .input) (hf : s.fsm = .rdmRecv) (hq : s.rxq = []) (hs : s.sizesOk = true)
    (ha : s.accepted = false) :
    exec (.brk tDisp tResp during) s =
      .next (leaveFinalisation (dispatchState tDisp tResp s)) := by
  have hfin : finalise tDisp tResp during (enterFinalisation s) =
      .next (enterFinalisation (dispatchState tDisp tResp s)) := by
    rw [finalise_dispatch tDisp tResp during (by exact hf) (by exact hq) (by exact hs)]
    exact congrArg (fun t => Host.Outcome.next (enterFinalisation t))
      (if_neg (Bool.eq_false_iff.mp ha))
  calc exec (.brk tDisp tResp during) s
      = breakDetected tDisp tResp during s := rfl
    _ = .next (leaveFinalisation (enterFinalisation (dispatchState tDisp tResp s))) := by
      rw [breakDetected_input tDisp tResp during hm, hq, rxBytes_nil, andThen_next, hfin,
        andThen_next]
    _ = .next (leaveFinalisation (dispatchState tDisp tResp s)) := rfl

/-- Settles O16: the dispatch leaves its time sample, and the return from the break overwrites the
forced `IDLE`. -/
theorem otherDestinationsAreIgnored : Obligations.OtherDestinationsAreIgnored := by
  unfold Obligations.OtherDestinationsAreIgnored
  intro s tDisp tResp during hm hf hq hs huid hvcast hbcast
  have ha : s.accepted = false := State.accepted_eq_false huid hvcast hbcast
  rw [exec_brk_ignores tDisp tResp during hm hf hq hs ha, dispatchState_ignored tDisp tResp ha]
  rfl

/-! ### Requests that `Validate` turns away (R180, R293) -/

section
variable {ok : Byte → Bool} {s : State}

/-- A wrong data length is what the NACK names unless a wrong sub-device goes before it (D16). -/
theorem validate_formatError (k : State → State) (hp : ok s.pdl = false)
    (h : s.subDevice = 0 ∨ s.cfg.nackPriority = .formatFirst) :
    validate ok k s = raiseNack s.cfg.proto.nrFormatError s := by
  unfold validate checkSubDevice checkFormat
  cases hprio : s.cfg.nackPriority with
  | formatFirst => simp only [hp, Bool.false_eq_true, if_false]
  | subdevFirst =>
    have h0 : s.subDevice = 0 := h.resolve_right (by simp [hprio])
    simp only [h0, hp, Bool.false_eq_true, if_true, if_false]

/-- A wrong sub-device is what the NACK names unless a wrong data length goes before it (D16). -/
theorem validate_subDeviceOutOfRange (k : State → State) (h0 : s.subDevice ≠ 0)
    (h : ok s.pdl = true ∨ s.cfg.nackPriority = .subdevFirst) :
    validate ok k s = raiseNack s.cfg.proto.nrSubDeviceOutOfRange s := by
  unfold validate checkSubDevice checkFormat
  cases hprio : s.cfg.nackPriority with
  | formatFirst =>
    have hp : ok s.pdl = true := h.resolve_right (by simp [hprio])
    simp only [hp, h0, if_true, if_false]
  | subdevFirst => simp only [h0, if_false]

/-- A command with accepted data lengths is `Validate` with these lengths before all else. -/
theorem exec_of_acceptedPdl {i : Instr} (hs : s.sizesOk = true)
    (h : acceptedPdl s.cfg i = some ok) : ∃ k, exec i s = .next (validate ok k s) := by
  cases i <;> cases h <;> exact ⟨_, withinBounds_ok _ hs⟩

end

/-- Settles O35: the NACK of `Validate` is the whole effect of the command. -/
theorem validationNacks : Obligations.ValidationNacks := by
  unfold Obligations.ValidationNacks
  intro s i ok hok hs
  obtain ⟨k, hexec⟩ := exec_of_acceptedPdl hs hok
  refine ⟨fun hp h => ?format, fun h0 h => ?subDevice⟩
  case format =>
    rw [hexec, validate_formatError k hp h]
    exact ⟨_, rfl, raiseNack_nacked _ s⟩
  case subDevice =>
    rw [hexec, validate_subDeviceOutOfRange k h0 h]
    exact ⟨_, rfl, raiseNack_nacked _ s⟩

end Sys2Proof.Machine
end

section
/-! PROOFS. The registers behind GET and SET (spec/43_rdm_handlers.md): identify flag, device label
and start address are read (R196, R198, R200), written (R197, R199, R201, R209), or the request is
turned away (R197, R201, R203). -/

namespace Sys2Proof.Machine

/-! ### GET of a register (R196, R198, R200) -/

/-- Settles O28: each answer is the handler's data, the start address read with and without a
configuration. -/
theorem getRegistersAnswer : Obligations.GetRegistersAnswer := by
  unfold Obligations.GetRegistersAnswer
  intro s hs hpdl hsub
  obtain ⟨hlabel, _⟩ := get_lengths hs
  have hget (data : State → List Byte) (hlen : (data s).length ≤ 231) :=
    withinBounds_getHandler_responded hs hpdl hsub hlen
  have hstart := hget (fun s => word16Bytes s.startAddrRead) (by simp [word16Bytes])
  refine ⟨hget (fun s => [s.identifyByte]) (by simp), hget (·.label) hlabel,
    fun hc => ?attached, fun hc => ?absent⟩
  case attached =>
    obtain ⟨c, hc⟩ := Option.isSome_iff_exists.mp hc
    rw [State.startAddrRead_attached hc] at hstart
    exact hstart
  case absent =>
    rw [State.startAddrRead_absent hc] at hstart
    exact hstart

/-! ### What a SET of an accepted length does with its value (R197, R199, R201) -/

section
variable {s : State}

theorem setIdentifyDevice_inRange (hpdl : s.pdl = 1) (hsub : s.subDevice = 0)
    (hv : (s.peek 23).toNat ≤ 1) :
    setIdentifyDevice s = ackSet (setIdentify (decide (s.peek 23 = 1)) s) :=
  (validate_ok (decide_eq_true hpdl) hsub).trans (if_neg (Nat.not_lt.mpr hv))

theorem setIdentifyDevice_outOfRange (hpdl : s.pdl = 1) (hsub : s.subDevice = 0)
    (hv : 2 ≤ (s.peek 23).toNat) :
    setIdentifyDevice s = raiseNack s.cfg.proto.nrDataOutOfRange s :=
  (validate_ok (decide_eq_true hpdl) hsub).trans (if_pos hv)

theorem setDeviceLabel_accepted (hpdl : s.pdl.toNat ≤ s.cfg.labelCap) (hsub : s.subDevice = 0) :
    setDeviceLabel s = ackSet { s with label := s.msgData } :=
  validate_ok (decide_eq_true hpdl) hsub

theorem setDmxStartAddress_outOfRange (hpdl : s.pdl = 2) (hsub : s.subDevice = 0)
    (hv : ¬ (1 ≤ (s.peek16 23).toNat ∧ (s.peek16 23).toNat ≤ 512)) :
    setDmxStartAddress s = raiseNack s.cfg.proto.nrDataOutOfRange s :=
  (validate_ok (decide_eq_true hpdl) hsub).trans
    (if_pos ((startAddr_outOfRange_iff _).mpr hv))

/-- Only a value in range gets as far as the configuration check (D16). -/
theorem setDmxStartAddress_inRange (hpdl : s.pdl = 2) (hsub : s.subDevice = 0)
    (hlo : 1 ≤ (s.peek16 23).toNat) (hhi : (s.peek16 23).toNat ≤ 512) :
    setDmxStartAddress s =
      if s.cfg.collab.isNone then raiseNack s.cfg.proto.nrHardwareFault s
      else ackSet { s with startAddr := s.peek16 23 } :=
  (validate_ok (decide_eq_true hpdl) hsub).trans
    (if_neg fun hout => (startAddr_outOfRange_iff _).mp hout ⟨hlo, hhi⟩)

end

/-! ### SET acknowledged (R209) -/

/-- The ACK of a SET answers without data from the state with "RDM changed" raised. -/
theorem ackSet_responded (s : State) :
    Responded (raiseRdmChanged s) (ackSet s) s.cfg.proto.rtAck [] :=
  ackWith_responded (raiseRdmChanged s) (by simp)

/-- Settles O32: a byte that encodes a flag is in range and is decoded to that flag. -/
theorem setIdentifyWritesTheFlag : Obligations.SetIdentifyWritesTheFlag := by
  unfold Obligations.SetIdentifyWritesTheFlag
  intro s hs hpdl hsub v hv
  have hrange : (s.peek 23).toNat ≤ 1 := by rw [hv]; cases v <;> decide
  have hflag : decide (s.peek 23 = 1) = v := by rw [hv]; cases v <;> decide
  have hset : setIdentifyDevice s = ackSet (setIdentify v s) := by
    rw [setIdentifyDevice_inRange hpdl hsub hrange, hflag]
  exact ⟨_, withinBounds_ok _ hs, hset ▸ ackSet_responded (setIdentify v s)⟩

/-- Settles O33: the label written is the data field of the message. -/
theorem setLabelTakesTheBytes : Obligations.SetLabelTakesTheBytes := by
  unfold Obligations.SetLabelTakesTheBytes
  intro s hs hpdl hsub
  exact ⟨_, withinBounds_ok _ hs,
    setDeviceLabel_accepted hpdl hsub ▸ ackSet_responded { s with label := s.msgData }⟩

/-- Settles O34: a value in range with a configuration passes both checks. -/
theorem setStartAddressWritesTheRegister : Obligations.SetStartAddressWritesTheRegister := by
  unfold Obligations.SetStartAddressWritesTheRegister
  intro s hs hpdl hsub hc hlo hhi
  obtain ⟨c, hc⟩ := Option.isSome_iff_exists.mp hc
  have hset : setDmxStartAddress s = ackSet { s with startAddr := s.peek16 23 } := by
    rw [setDmxStartAddress_inRange hpdl hsub hlo hhi, hc]
    rfl
  exact ⟨_, withinBounds_ok _ hs,
    hset ▸ ackSet_responded { s with startAddr := s.peek16 23 }⟩

/-! ### SET turned away (R197, R201, R203) -/

/-- A command that comes down to a NACK answers with it. -/
theorem withinBounds_nacked {k : State → State} {s : State} {reason : Word16}
    (hs : s.sizesOk = true) (hk : k s = raiseNack reason s) :
    ∃ t, withinBounds k s = .next t ∧ Nacked s t reason :=
  ⟨_, withinBounds_ok k hs, hk ▸ raiseNack_nacked reason s⟩

/-- Settles O36: each value takes the branch of its handler that ends in the NACK named. -/
theorem valueNacks : Obligations.ValueNacks := by
  unfold Obligations.ValueNacks
  intro s hs hsub
  refine ⟨fun hpdl hv => ?identify, fun hpdl hv => ?startAddr, fun hpdl hlo hhi hc => ?absent⟩
  case identify => exact withinBounds_nacked hs (setIdentifyDevice_outOfRange hpdl hsub hv)
  case startAddr =>
    exact withinBounds_nacked hs (setDmxStartAddress_outOfRange hpdl hsub (by omega))
  case absent =>
    refine withinBounds_nacked hs ?_
    rw [setDmxStartAddress_inRange hpdl hsub hlo hhi, hc]
    rfl

/-- Settles O37: the handler is the NACK and checks nothing before it. -/
theorem setSupportedParametersAlwaysNacks : Obligations.SetSupportedParametersAlwaysNacks := by
  unfold Obligations.SetSupportedParametersAlwaysNacks
  exact fun s hs => withinBounds_nacked (k := setSupportedParameters) hs rfl

end Sys2Proof.Machine
end

section
/-! PROOFS. The discovery reply and the request it answers (spec/44_rdm_discovery.md). A byte sent
twice, OR a mask and OR the complementary mask, comes back by AND, and the two copies add up to the
byte plus 0xFF (R232, R236); the unique-branch request is answered under one condition, and is
otherwise dropped (R231, R233). -/

namespace Sys2Proof

/-! ### Sums of bytes (R94, R98) -/

/-- A checksum register that takes bytes one by one holds its start value plus their sum. -/
theorem foldl_add_byte (bs : List Byte) (c : Word16) :
    bs.foldl (fun c b => c + b.setWidth 16) c = c + BitVec.ofNat 16 (bs.map BitVec.toNat).sum := by
  induction bs generalizing c with
  | nil => simp
  | cons b bs ih =>
    rw [List.foldl_cons, ih, List.map_cons, List.sum_cons, BitVec.ofNat_add,
      BitVec.ofNat_toNat, BitVec.add_assoc]

theorem idBytes_getElem? (u : Id48) {k : Nat} (hk : k < 6) :
    (idBytes u)[k]? = some (idByte u k) := by
  interval_cases k <;> rfl

end Sys2Proof

namespace Sys2Proof.Machine

/-! ### A byte under the two masks (R98) -/

/-- The masks have no bit in common, so that AND takes both away again. -/
theorem masked_and_masked (b : Byte) : (b ||| Config.dubAa) &&& (b ||| Config.dub55) = b := by
  apply BitVec.eq_of_toNat_eq
  rw [BitVec.toNat_and, BitVec.toNat_or, BitVec.toNat_or, ← Nat.or_and_distrib_left]
  exact Nat.or_zero _

/-- The masks are complementary: every bit of the byte that is 0 is set in one copy, every bit that
is 1 in both. Decided on the 256 bytes. -/
theorem masked_add_masked (b : Byte) :
    (b ||| Config.dubAa).toNat + (b ||| Config.dub55).toNat = 0xFF + b.toNat := by
  revert b
  decide

theorem orMasked_getElem?_even (bs : List Byte) (k : Nat) :
    (orMasked bs)[2 * k]? = bs[k]?.map (· ||| Config.dubAa) := by
  induction bs generalizing k with
  | nil => rfl
  | cons b bs ih =>
    cases k with
    | zero => rfl
    | succ k => exact ih k

theorem orMasked_getElem?_odd (bs : List Byte) (k : Nat) :
    (orMasked bs)[2 * k + 1]? = bs[k]?.map (· ||| Config.dub55) := by
  induction bs generalizing k with
  | nil => rfl
  | cons b bs ih =>
    cases k with
    | zero => rfl
    | succ k => exact ih k

/-- The masked bytes exceed the bytes themselves by 0xFF for each. -/
theorem orMasked_sum (bs : List Byte) :
    ((orMasked bs).map BitVec.toNat).sum = bs.length * 0xFF + (bs.map BitVec.toNat).sum := by
  induction bs with
  | nil => rfl
  | cons b bs ih =>
    have hb := masked_add_masked b
    simp only [orMasked, List.map_cons, List.sum_cons, List.length_cons, ih]
    omega

/-! ### The reply (R232, R236) -/

theorem dubChecksum_eq (u : Id48) :
    dubChecksum u = BitVec.ofNat 16 (6 * 0xFF + ((idBytes u).map BitVec.toNat).sum) := by
  rw [BitVec.ofNat_add]
  exact foldl_add_byte _ _

/-- The twelve bytes of the id stand behind the preamble. -/
theorem dubReply_id (u : Id48) : ((dubReply u).drop 8).take 12 = orMasked (idBytes u) := rfl

/-- The four bytes of the checksum end the reply. -/
theorem dubReply_checksum (u : Id48) :
    (dubReply u).drop 20 = orMasked (word16Bytes (dubChecksum u)) := rfl

theorem dubReply_length (u : Id48) : (dubReply u).length = 24 := rfl

theorem dubReply_getElem?_id (u : Id48) {i : Nat} (hi : i < 12) :
    (dubReply u)[8 + i]? = (orMasked (idBytes u))[i]? := by
  rw [← dubReply_id, List.getElem?_take_of_lt hi, List.getElem?_drop]

/-- Each id byte twice, under the one mask and the other. -/
theorem dubReply_idByte (u : Id48) {k : Nat} (hk : k < 6) :
    (dubReply u)[8 + 2 * k]? = some (idByte u k ||| 0xAA) ∧
      (dubReply u)[9 + 2 * k]? = some (idByte u k ||| 0x55) := by
  rw [show 9 + 2 * k = 8 + (2 * k + 1) by omega, dubReply_getElem?_id u (by omega),
    dubReply_getElem?_id u (by omega), orMasked_getElem?_even, orMasked_getElem?_odd,
    idBytes_getElem? u hk]
  exact ⟨rfl, rfl⟩

/-- Settles O43: the three parts of the reply, with the checksum as a sum of naturals. -/
theorem discoveryReplyLayout : Obligations.DiscoveryReplyLayout := by
  unfold Obligations.DiscoveryReplyLayout
  intro u c
  have hc : dubChecksum u = c := by
    rw [dubChecksum_eq]
    exact BitVec.eq_of_toNat_eq (by simp [c])
  refine ⟨dubReply_length u, rfl, fun k hk => dubReply_idByte u hk, ?_⟩
  rw [dubReply_checksum, hc]
  rfl

/-- The receiver's AND of the four checksum bytes gives the checksum sent. -/
theorem dubReply_recovers_checksum (u : Id48) :
    be16 ((dubReply u).getD 20 0 &&& (dubReply u).getD 21 0)
      ((dubReply u).getD 22 0 &&& (dubReply u).getD 23 0) = dubChecksum u := by
  have hhi : (dubReply u).getD 20 0 &&& (dubReply u).getD 21 0 = hi8 (dubChecksum u) :=
    masked_and_masked _
  have hlo : (dubReply u).getD 22 0 &&& (dubReply u).getD 23 0 = lo8 (dubChecksum u) :=
    masked_and_masked _
  rw [hhi, hlo, be16_hi8_lo8]

/-- Settles O44: AND undoes the masks, and the masked id bytes add up to the checksum. -/
theorem discoveryReplyRoundTrip : Obligations.DiscoveryReplyRoundTrip := by
  unfold Obligations.DiscoveryReplyRoundTrip
  intro u
  refine ⟨fun k hk => ?idByte, ?checksum⟩
  case idByte =>
    obtain ⟨haa, h55⟩ := dubReply_idByte u hk
    rw [List.getD_eq_getElem?_getD, List.getD_eq_getElem?_getD, haa, h55]
    exact masked_and_masked _
  case checksum =>
    rw [dubReply_recovers_checksum, dubChecksum_eq, dubReply_id, orMasked_sum, idBytes_length]

/-! ### The unique-branch request (R231, R233) -/

/-- The command is its one condition: answered where all of it holds, dropped elsewhere. -/
theorem discUniqueBranch_eq (s : State) :
    discUniqueBranch s =
      if s.mute = false ∧ s.peek 1 = 36 ∧ s.peek 22 = 12 ∧
          (s.peek48 23).toNat ≤ s.cfg.uid.toNat ∧ s.cfg.uid.toNat ≤ (s.peek48 29).toNat then
        rawSend (s.pokeBytes 0 (dubReply s.cfg.uid))
      else s := by
  unfold discUniqueBranch raiseDrop
  split
  next hmute =>
    refine (if_neg ?_).symm
    rintro ⟨hunmuted, -⟩
    exact Bool.noConfusion (hunmuted.symm.trans hmute)
  next hmute =>
    split
    next hform =>
      refine (if_neg ?_).symm
      rintro ⟨-, hlen, hpdl, -⟩
      exact hform.elim (· hlen) (· hpdl)
    next hform =>
      obtain ⟨hlen, hpdl⟩ := not_or.mp hform
      refine if_congr ⟨?_, ?_⟩ rfl rfl
      · rintro ⟨hlo, hhi⟩
        exact ⟨Bool.eq_false_of_not_eq_true hmute, not_not.mp hlen, not_not.mp hpdl, hlo, hhi⟩
      · rintro ⟨-, -, -, hlo, hhi⟩
        exact ⟨hlo, hhi⟩

/-- The raw path puts 24 bytes just written on the wire and touches nothing else (R233). -/
theorem rawSend_pokeBytes (s : State) {bs : List Byte} (hlen : bs.length = 24) :
    rawSend (s.pokeBytes 0 bs) =
      { s with
        mem := (s.pokeBytes 0 bs).mem
        out := s.out ++ burst .discBrk bs
        lineTiming := .data
        lineDir := .rx } := by
  have hread : (s.pokeBytes 0 bs).peekBytes 0 24 = bs := hlen ▸ s.peekBytes_pokeBytes_same 0 bs
  rw [rawSend, hread, State.emit, timingAfter_burst, dirAfter_burst]
  rfl

/-- Settles O40: the condition holds, and the raw path sends the reply it has just written. -/
theorem uniqueBranchReplies : Obligations.UniqueBranchReplies := by
  unfold Obligations.UniqueBranchReplies
  intro s hs hmute hlen hpdl hlo hhi
  have hreply := dubReply_length s.cfg.uid
  refine ⟨rawSend (s.pokeBytes 0 (dubReply s.cfg.uid)), ?next, ?reply, fun a ha => ?frame, ?rest⟩
  case next =>
    refine (withinBounds_ok _ hs).trans ?_
    rw [discUniqueBranch_eq, if_pos ⟨hmute, hlen, hpdl, hlo, hhi⟩]
  case reply =>
    rw [rawSend, State.peekBytes_emit, ← hreply, State.peekBytes_pokeBytes_same]
  case frame =>
    rw [rawSend, State.emit_mem]
    exact State.read_pokeBytes_outside (by rwa [hreply])
  case rest => exact rawSend_pokeBytes s hreply

/-- Settles O41: each way to be silent makes the condition fail. -/
theorem uniqueBranchIsSilent : Obligations.UniqueBranchIsSilent := by
  unfold Obligations.UniqueBranchIsSilent
  intro s hs hsilent
  refine (withinBounds_ok _ hs).trans ?_
  rw [discUniqueBranch_eq, if_neg]
  simpa only [not_and_or, Bool.not_eq_false, not_le] using hsilent

end Sys2Proof.Machine
end

section
/-! PROOFS. The Response Builder step by step and as a whole (spec/45_response_builder.md R250 to
R258). Steps 2 and 4 are given by what a read of any address finds afterwards; what the finished
message holds comes from the one lemma that the request as it stands is `Prepared` for the builder,
with its own data for an ACK. -/

namespace Sys2Proof.Machine

/-! ### Single steps, by address (R252, R254) -/

theorem State.read_poke16 (s : State) (k : Nat) (v : Word16) (a : Nat) :
    (s.poke16 k v).mem.read a =
      if a = s.actAddr k then hi8 v else if a = s.actAddr (k + 1) then lo8 v
      else s.mem.read a := by
  rw [State.poke16_mem, State.actAddr_add, Memory.writeBytes, Memory.writeBytes,
    Memory.writeBytes_nil, Memory.read_write, Memory.read_write]
  grind

theorem read_setResponseType_ack (s : State) (a : Nat) :
    (setResponseType .ack s).mem.read a =
      if a = s.actAddr 15 then s.cfg.proto.rtAck else s.mem.read a :=
  Memory.read_write _ _ _ _

/-- The type is written first, the data length last; the four bytes are apart from each other, so
that the order is not seen. -/
theorem read_setResponseType_nack (reason : Word16) (s : State) (a : Nat) :
    (setResponseType (.nack reason) s).mem.read a =
      if a = s.actAddr 15 then s.cfg.proto.rtNack
      else if a = s.actAddr 22 then 2
      else if a = s.actAddr 23 then hi8 reason
      else if a = s.actAddr 24 then lo8 reason
      else s.mem.read a := by
  have happart : s.actAddr 15 < s.actAddr 22 ∧ s.actAddr 22 < s.actAddr 23 ∧
      s.actAddr 23 < s.actAddr 24 := by
    unfold State.actAddr
    omega
  have hsteps : (setResponseType (.nack reason) s).mem.read a =
      if a = s.actAddr 22 then 2
      else if a = s.actAddr 23 then hi8 reason
      else if a = s.actAddr 24 then lo8 reason
      else if a = s.actAddr 15 then s.cfg.proto.rtNack else s.mem.read a := by
    rw [setResponseType, State.poke_mem, Memory.read_write, State.read_poke16, State.poke_mem,
      Memory.read_write]
    rfl
  rw [hsteps]
  by_cases htype : a = s.actAddr 15
  · rw [if_neg (by omega), if_neg (by omega), if_neg (by omega), if_pos htype, if_pos htype]
  · simp only [if_neg htype]

/-- The two ids of six bytes lie behind each other, destination first. -/
theorem read_swapAddresses (s : State) (a : Nat) :
    (swapAddresses s).mem.read a =
      if s.actAddr 2 ≤ a ∧ a < s.actAddr 8 then s.mem.read (a + 6)
      else if s.actAddr 8 ≤ a ∧ a < s.actAddr 14 then idByte s.cfg.uid (a - s.actAddr 8)
      else s.mem.read a := by
  have h8 : s.actAddr 8 = s.actAddr 2 + 6 := s.actAddr_add 2 6
  have h14 : s.actAddr 14 = s.actAddr 8 + 6 := s.actAddr_add 8 6
  unfold swapAddresses
  rw [State.pokeBytes_mem, State.pokeBytes_actAddr, Memory.read_writeBytes, State.pokeBytes_mem,
    Memory.read_writeBytes, State.peekBytes_length, idBytes_length, ← h8, ← h14]
  by_cases hdest : s.actAddr 2 ≤ a ∧ a < s.actAddr 8
  · have hread : s.actAddr (8 + (a - s.actAddr 2)) = a + 6 := by
      rw [State.actAddr_add]
      omega
    rw [if_neg (by omega), if_pos hdest, if_pos hdest,
      List.getD_eq_getElem _ _ (by rw [State.peekBytes_length]; omega), State.peekBytes_getElem,
      State.peek, hread]
  · simp only [if_neg hdest]
    split
    next hsource => rw [List.getD_eq_getElem?_getD, idBytes_getElem? _ (by omega)]; rfl
    next => rfl

/-! ### The finished message (R258) -/

/-- The response type the builder writes (R252). -/
def ReplyKind.responseType (p : Protocol) : ReplyKind → Byte
  | .ack => p.rtAck
  | .nack _ => p.rtNack

/-- The data of the message the builder completes: those in the buffer, or the reason (R252). -/
def State.replyData (s : State) : ReplyKind → List Byte
  | .ack => s.msgData
  | .nack reason => word16Bytes reason

/-- A message's own data and data length, written over it, change nothing. -/
theorem State.answeredByte_msgData (s : State) (responseType : Byte) (j : Nat) :
    s.answeredByte responseType s.msgData j = if j = 15 then responseType else s.peek j := by
  have hlen : s.msgData.length = s.pdl.toNat := State.peekBytes_length ..
  unfold State.answeredByte
  rw [hlen]
  by_cases hpdl : j = 22
  · rw [if_pos hpdl, if_neg (by omega), hpdl, BitVec.ofNat_toNat, BitVec.setWidth_eq]
    rfl
  · rw [if_neg hpdl]
    by_cases hfield : 23 ≤ j ∧ j < 23 + s.pdl.toNat
    · rw [if_pos hfield, if_neg (by omega), List.getD_eq_getElem _ _ (by omega)]
      refine (State.peekBytes_getElem s 23 _ _ _).trans ?_
      rw [Nat.add_sub_cancel' hfield.1]
    · rw [if_neg hfield]

/-- Any message in the buffer with at most 231 data bytes is ready for the builder as it stands; a
NACK does not keep the data and needs no bound. -/
theorem prepared_inPlace {kind : ReplyKind} {s : State}
    (hlen : kind ≠ .ack ∨ s.pdl.toNat ≤ 231) :
    Prepared kind s s (kind.responseType s.cfg.proto) (s.replyData kind) := by
  cases kind with
  | nack reason => exact prepared_nack reason s
  | ack =>
    exact {
      lengthLe := (State.peekBytes_length ..).trans_le (hlen.resolve_left (absurd rfl))
      onlyMemory := .refl s
      served := .refl s
      request := fun _ _ => rfl
      answer := fun j => (peek_setResponseType .ack s j).trans (s.answeredByte_msgData _ j).symm }

theorem peek_build (kind : ReplyKind) (s : State) (j : Nat) :
    (build kind s).peek j = (appendChecksum (header kind s)).peek j := by
  rw [build_emit, State.peek_emit]

section
variable {kind : ReplyKind} {s s' : State} {responseType : Byte} {data : List Byte}

/-- Before its checksum the finished message is the header and the data. -/
theorem Prepared.peek_build (h : Prepared kind s s' responseType data) {j : Nat}
    (hj : j < 23 + data.length) : (build kind s').peek j = (header kind s').peek j := by
  rw [Machine.peek_build, h.peek_completed, if_neg (by omega), if_neg (by omega)]

theorem Prepared.build_length (h : Prepared kind s s' responseType data) :
    ((build kind s').peek 1).toNat = data.length + 24 := by
  rw [h.peek_build (by omega), h.header_length]

theorem Prepared.build_responseType (h : Prepared kind s s' responseType data) :
    (build kind s').peek 15 = responseType := by
  rw [h.peek_build (by omega), h.peek_header]
  simp [State.answeredByte]

theorem Prepared.build_dataLength (h : Prepared kind s s' responseType data) :
    (build kind s').peek 22 = BitVec.ofNat 8 data.length := by
  rw [h.peek_build (by omega), h.peek_header]
  simp [State.answeredByte]

theorem Prepared.build_data (h : Prepared kind s s' responseType data) {j : Nat}
    (hj : j < data.length) : (build kind s').peek (23 + j) = data.getD j 0 := by
  rw [h.peek_build (by omega), h.peek_header, State.answeredByte]
  grind

theorem Prepared.build_destination (h : Prepared kind s s' responseType data) {k : Nat}
    (hk : k < 6) : (build kind s').peek (2 + k) = s.peek (8 + k) := by
  rw [h.peek_build (by omega), h.peek_header, if_neg (by omega), if_neg (by omega),
    if_pos (by omega), show 2 + k + 6 = 8 + k by omega]

theorem Prepared.build_source (h : Prepared kind s s' responseType data) {k : Nat} (hk : k < 6) :
    (build kind s').peek (8 + k) = idByte s.cfg.uid k := by
  rw [h.peek_build (by omega), h.peek_header, if_neg (by omega), if_pos (by omega),
    Nat.add_sub_cancel_left, List.getD_eq_getElem?_getD, idBytes_getElem? _ hk]
  rfl

theorem Prepared.build_body (h : Prepared kind s s' responseType data) :
    (build kind s').peekBytes 0 (23 + data.length) = responseBody s responseType data := by
  rw [← h.header_body]
  exact State.peekBytes_congr fun j hj => h.peek_build (by omega)

theorem Prepared.build_checksum (h : Prepared kind s s' responseType data) :
    (build kind s').peek (23 + data.length) =
        hi8 (checksum16 (responseBody s responseType data)) ∧
      (build kind s').peek (24 + data.length) =
        lo8 (checksum16 (responseBody s responseType data)) := by
  simp only [Machine.peek_build, h.peek_completed]
  grind

end

/-! ### The checksum as a sum of naturals (R94, R256) -/

theorem checksum16_eq (bs : List Byte) :
    checksum16 bs = BitVec.ofNat 16 (0xCC + (bs.map BitVec.toNat).sum) := by
  rw [BitVec.ofNat_add]
  exact foldl_add_byte _ _

theorem sum_toNat_le (bs : List Byte) : (bs.map BitVec.toNat).sum ≤ bs.length * 255 := by
  have h := List.sum_le_card_nsmul (bs.map BitVec.toNat) 255 (by
    simp only [List.mem_map]
    rintro _ ⟨b, -, rfl⟩
    exact Nat.le_of_lt_succ b.isLt)
  simpa using h

/-! ### The response timer (R251) -/

/-- The difference of two samples of the counter, of which the later one may have wrapped. -/
theorem State.elapsed_eq {s : State} (ht0 : s.t0 < 2 ^ s.cfg.timeW)
    (hnow : s.now < 2 ^ s.cfg.timeW) :
    s.elapsed = if s.t0 ≤ s.now then s.now - s.t0 else s.now + 2 ^ s.cfg.timeW - s.t0 := by
  unfold State.elapsed
  rw [Nat.mod_eq_of_lt ht0]
  split
  next hle =>
    rw [Nat.sub_add_comm hle, Nat.add_mod_right, Nat.mod_eq_of_lt (by omega)]
  next => exact Nat.mod_eq_of_lt (by omega)

theorem build_out (kind : ReplyKind) (s : State) :
    ∃ rest, (build kind s).out = s.out ++ timerActions s ++ [.dir .tx] ++ rest := by
  rw [build_emit, State.emit_out, (appendChecksum_onlyMemory _).out, (header_onlyMemory _ _).out,
    burst, List.append_assoc, List.cons_append]
  exact ⟨_, by rw [List.append_assoc, List.append_assoc, List.singleton_append]⟩

/-! ### The statements -/

/-- Settles O23: an ACK and a NACK are both a whole response. -/
theorem responseBuilderSendsTheMessage : Obligations.ResponseBuilderSendsTheMessage := by
  unfold Obligations.ResponseBuilderSendsTheMessage
  exact ⟨fun s _ hlen => ackWith_responded s hlen, fun s reason => raiseNack_nacked reason s⟩

/-- Settles O24: step 2 by address, then the fields of the finished message. -/
theorem responseTypeAndNackPayload : Obligations.ResponseTypeAndNackPayload := by
  unfold Obligations.ResponseTypeAndNackPayload
  refine ⟨read_setResponseType_ack, fun s reason => read_setResponseType_nack reason s,
    fun s hlen => (prepared_inPlace (.inr hlen)).build_responseType, fun s reason => ?_⟩
  have h := prepared_nack reason s
  refine ⟨h.build_responseType, h.build_dataLength, h.build_data (j := 0) Nat.zero_lt_two,
    h.build_data (j := 1) Nat.one_lt_two, ?_⟩
  exact BitVec.eq_of_toNat_eq h.build_length

/-- Settles O25: step 4 by address, then the two ids of the finished message. -/
theorem responseSwapsAddressing : Obligations.ResponseSwapsAddressing := by
  unfold Obligations.ResponseSwapsAddressing
  refine ⟨read_swapAddresses, fun s kind k hlen hk => ?_⟩
  have h := prepared_inPlace hlen
  exact ⟨h.build_destination hk, h.build_source hk⟩

/-- Settles O26: the checksum register adds modulo 2^16, and 254 bytes after the start code stay
below that. -/
theorem checksumIsTheAdditiveSum : Obligations.ChecksumIsTheAdditiveSum := by
  unfold Obligations.ChecksumIsTheAdditiveSum
  intro s kind hlen t len sum
  have h := prepared_inPlace hlen
  have hdata := h.lengthLe
  have hlength : len = (s.replyData kind).length + 24 := h.build_length
  have hcount : len - 1 = 23 + (s.replyData kind).length := by omega
  have hbody : t.peekBytes 0 (len - 1) =
      responseBody s (kind.responseType s.cfg.proto) (s.replyData kind) := by
    rw [hcount]
    exact h.build_body
  have hsum : sum ≤ 64974 := by
    have hbytes := sum_toNat_le (t.peekBytes 0 (len - 1))
    rw [State.peekBytes_length] at hbytes
    omega
  have hchecksum : checksum16 (responseBody s (kind.responseType s.cfg.proto)
      (s.replyData kind)) = BitVec.ofNat 16 (sum % 65536) := by
    rw [← hbody, checksum16_eq, Nat.mod_eq_of_lt (by omega)]
  obtain ⟨hhi, hlo⟩ := h.build_checksum
  refine ⟨by omega, by omega, hsum, ?_, ?_⟩
  · rw [hcount, ← hchecksum]
    exact hhi
  · rw [hlength, Nat.add_comm, ← hchecksum]
    exact hlo

/-- Settles O27: the elapsed time without the modulo, and the wait, if any, before the burst. -/
theorem responseNeverLeavesBeforeTheGap : Obligations.ResponseNeverLeavesBeforeTheGap := by
  unfold Obligations.ResponseNeverLeavesBeforeTheGap
  intro s kind ht0 hnow
  obtain ⟨rest, hout⟩ := build_out kind s
  refine ⟨State.elapsed_eq ht0 hnow, rest, ?_⟩
  unfold timerActions at hout
  by_cases hgap : s.elapsed < 176
  · rw [if_pos hgap] at hout
    exact .inl ⟨hgap, by simpa using hout⟩
  · rw [if_neg hgap] at hout
    exact .inr ⟨Nat.le_of_not_lt hgap, by simpa using hout⟩

end Sys2Proof.Machine
end

section
/-! PROOFS. The application interface (spec/46_host_interface.md): the mode call re-arms a sequencer
(R271), the channel calls write the active buffer (R272, R273), the copying reads leave the engine
alone (R274, R277, R278). -/

namespace Sys2Proof.Machine

/-! ### Selecting the mode (R271) -/

theorem exec_setMode_off (s : State) :
    exec (.setMode .off) s = .next { s.emit [.stop] with mode := .off, idx := 0, fsm := .idle } :=
  rfl

theorem exec_setMode_input (s : State) :
    exec (.setMode .input) s = .next { s.emit [.cfg .data, .dir .rx] with
      mode := .input, idx := 0, fsm := .idle } := rfl

theorem exec_setMode_output (s : State) :
    exec (.setMode .output) s = .next { s.emit [.dir .tx, .cfg .brk, .wr 0x00] with
      mode := .output, idx := 0, fsm := .brk } := rfl

/-- Settles O45: mode by mode; the line keeps the last timing and direction emitted, and `STOP` is
neither. -/
theorem setModeRearms : Obligations.SetModeRearms := by
  unfold Obligations.SetModeRearms
  exact fun s => ⟨exec_setMode_off s, exec_setMode_input s, exec_setMode_output s⟩

/-! ### Writing one slot (R272) -/

theorem exec_setChannel_inRange {a : Word16} (v : Byte) (s : State) (ha : a.toNat < 512) :
    exec (.setChannel a v) s = .next (s.poke a.toNat v) :=
  congrArg Host.Outcome.next (if_pos ha)

theorem exec_setChannel_ignored {a : Word16} (v : Byte) (s : State) (ha : 512 ≤ a.toNat) :
    exec (.setChannel a v) s = .next s :=
  congrArg Host.Outcome.next (if_neg (Nat.not_lt.mpr ha))

/-- Settles O46: an address inside the buffer is one `poke`. -/
theorem setChannelWritesOneSlot : Obligations.SetChannelWritesOneSlot := by
  unfold Obligations.SetChannelWritesOneSlot
  refine fun s a v => ⟨fun ha => ?written, exec_setChannel_ignored v s⟩
  case written =>
    refine ⟨_, exec_setChannel_inRange v s ha, ?slot,
      fun b hb => State.read_poke_outside v hb, (OnlyMemory.refl s).poke a.toNat v⟩
    case slot => rw [State.peek_poke, if_pos rfl]

/-! ### Writing all slots (R273) -/

theorem channelImage_length (start n : Nat) (vs : List Byte) :
    (channelImage start n vs).length = 512 := by
  rw [channelImage, List.length_map, List.length_range]

/-- The image is zero but for the `n` slots from `start` on, cut off at the end of the buffer. -/
theorem channelImage_getD (start n : Nat) (vs : List Byte) {k : Nat} (hk : k < 512) :
    (channelImage start n vs).getD k 0 =
      if start ≤ k ∧ k < start + n then vs.getD (k - start) 0 else 0 := by
  have hlen := channelImage_length start n vs
  rw [List.getD_eq_getElem _ _ (hlen.symm ▸ hk)]
  simp only [channelImage, List.getElem_map, List.getElem_range]
  by_cases hbefore : k < start
  · rw [if_pos hbefore, if_neg (by omega)]
  · rw [if_neg hbefore]
    exact if_congr (by omega) rfl rfl

theorem exec_setChannels_counted (start : Word16) {n : Word16} {vs : List Byte} (s : State)
    (hn : n.toNat = vs.length) :
    exec (.setChannels start n vs) s =
      .next (s.pokeBytes 0 (channelImage start.toNat n.toNat vs)) := if_pos hn

theorem exec_setChannels_miscounted (start : Word16) {n : Word16} {vs : List Byte} (s : State)
    (hn : n.toNat ≠ vs.length) :
    exec (.setChannels start n vs) s = .refused .channelCount := if_neg hn

/-- Settles O47: the image is as long as the buffer, so every slot is a byte of it and nothing
outside the buffer is touched. -/
theorem setChannelsFillsTheBuffer : Obligations.SetChannelsFillsTheBuffer := by
  unfold Obligations.SetChannelsFillsTheBuffer
  refine fun s start n vs => ⟨fun hn => ?filled, exec_setChannels_miscounted start s⟩
  case filled =>
    have hlen := channelImage_length start.toNat n.toNat vs
    refine ⟨_, exec_setChannels_counted start s hn, fun k hk => ?slot, fun a ha => ?frame,
      (OnlyMemory.refl s).pokeBytes 0 _⟩
    case slot =>
      rw [State.peek_pokeBytes, if_pos (by omega), Nat.sub_zero, channelImage_getD _ _ _ hk, hn]
    case frame =>
      refine State.read_pokeBytes_outside ?_
      rwa [hlen, Nat.zero_add]

/-! ### Reading copies (R274, R277, R278) -/

theorem exec_getLabel (s : State) :
    exec .getLabel s = .next { s with returned := s.returned ++ [.bytes s.label] } := rfl

theorem exec_isIdentify (s : State) :
    exec .isIdentify s = .next { s with returned := s.returned ++ [.bool s.identify] } := rfl

/-- The inactive buffer is contiguous. -/
theorem State.inactAddr_eq (s : State) (k : Nat) : s.inactAddr k = s.inactAddr 0 + k := by
  rw [State.inactAddr, State.inactAddr, Nat.add_zero]

/-- A copy of the inactive buffer, byte by byte. -/
theorem State.readBytes_inactive_getD (s : State) {n k : Nat} (hk : k < n) :
    (s.mem.readBytes (s.inactAddr 0) n).getD k 0 = s.peekInactive k := by
  have hlen := s.mem.readBytes_length (s.inactAddr 0) n
  rw [List.getD_eq_getElem _ _ (hlen.symm ▸ hk), Memory.readBytes_getElem, ← s.inactAddr_eq,
    State.peekInactive]

/-- Settles O48: both calls only append to what was returned; the copy is the inactive buffer byte
by byte. -/
theorem getBufferAndGetLabelReturnCopies : Obligations.GetBufferAndGetLabelReturnCopies := by
  unfold Obligations.GetBufferAndGetLabelReturnCopies
  exact fun s => ⟨⟨_, exec_getBuffer s, s.mem.readBytes_length (s.inactAddr 0) 512,
    fun _ hk => s.readBytes_inactive_getD hk⟩, exec_getLabel s⟩

/-- The packet of an event holds that event and no byte more. -/
theorem decodePacket_encode_event {p : Params} {i : Instr} (hsp : i.space = .event)
    (hwf : WellFormed p i = true) : decodePacket p (encode p i) = .ok i := by
  have hdec := decode_encode_event (p := p) [] hsp hwf
  rw [List.append_nil] at hdec
  rw [decodePacket, hdec]

/-- Settles O50: the selector alone is the encoding of `isIdentify`. -/
theorem isIdentifyReturnsTheFlag : Obligations.IsIdentifyReturnsTheFlag := by
  unfold Obligations.IsIdentifyReturnsTheFlag
  exact fun s => ⟨decodePacket_encode_event (i := .isIdentify) rfl rfl, exec_isIdentify s⟩

end Sys2Proof.Machine
end

section
/-! PROOFS. The break as the point where the engine recovers from every message
(spec/60_exceptions.md R302). -/

namespace Sys2Proof.Machine

/-- The drain empties the queue, and whichever arm of the finalisation follows puts nothing into it
(R140, R143). -/
theorem exec_brk_rxq {s t : State} {tDisp tResp : Nat} {during : List Byte}
    (hm : s.mode = .input) (h : exec (.brk tDisp tResp during) s = .next t) : t.rxq = [] := by
  obtain ⟨u, v, _, hq, rfl, harm⟩ := exec_brk_input hm h
  rcases harm with ⟨_, rfl⟩ | ⟨_, rfl⟩ | ⟨_, hsizes, ⟨_, rfl⟩ | ⟨_, rfl⟩⟩
  case inr.inr.inl =>
    have hserved : Served (dispatchState tDisp tResp (enterFinalisation u))
        (runCommand (dispatchState tDisp tResp (enterFinalisation u))) := served_runCommand hsizes
    exact hserved.rxq.trans hq
  all_goals exact hq

/-- Whatever an armed break finalised, it leaves the sequencer armed for a start code and interrupts
deliverable (R140). -/
theorem exec_brk_armed {s t : State} {tDisp tResp : Nat} {during : List Byte}
    (hm : s.mode = .input) (h : exec (.brk tDisp tResp during) s = .next t) :
    t.fsm = .brk ∧ t.idx = 0 ∧ t.irqSuppress = false := by
  obtain ⟨_, v, _, _, rfl, _⟩ := exec_brk_input hm h
  exact ⟨leaveFinalisation_fsm v, leaveFinalisation_idx v, leaveFinalisation_irqSuppress v⟩

/-- Settles O17: the invariants rule out a fault of the drain, and a break that goes on re-arms. -/
theorem breakAlwaysRearms : Obligations.BreakAlwaysRearms := by
  unfold Obligations.BreakAlwaysRearms
  intro s tDisp tResp during hi hm
  obtain ⟨t, ht⟩ := exec_brk_goes_on hi tDisp tResp during
  obtain ⟨hfsm, hidx, hirq⟩ := exec_brk_armed hm ht
  obtain ⟨_, _, _, hmode, _⟩ := exec_brk_control hm ht
  exact ⟨t, ht, hfsm, hidx, hirq, exec_brk_rxq hm ht, hmode.trans hm⟩

end Sys2Proof.Machine
end
